-- ==== Sys2Proof/Word.lean ====
section
/-! DEFINITION. The word types of the MD5 compression engine (spec 00 R6, R7, R9, R10). Arithmetic on them is that of
`BitVec`: unsigned, reduced modulo two to the width. -/

namespace Sys2Proof

/-- `bits8`: a message byte, a digest byte, a response (00 R9, R7). -/
abbrev Byte := BitVec 8

/-- `bits32`: every datapath value (00 R10). -/
abbrev Word := BitVec 32

/-- `bits64`: the message bit length LEN (10 R36). -/
abbrev LenWord := BitVec 64

/-- `cmd[15:0]`: one command word of the host (30 R100). -/
abbrev CmdWord := BitVec 16

end Sys2Proof
end

