-- ==== Sys2Proof/Syntax.lean ====
section
/-! DEFINITION. The commands of the engine: one constructor per row of spec/opcode_table.json (30 R105). -/

namespace Sys2Proof

/-- The commands a host can issue (30 R104, R105). Each operand has exactly the width of its field, so an operand out
of range cannot be written: the must-be-zero bits of OPD are the decoder's affair (30 R106). -/
inductive Instr where
  /-- INIT: open a new message (40 R141). -/
  | init
  /-- PUSH b: append one message byte, `b = OPD[7:0]` (40 R144). -/
  | push (b : BitVec 8)
  /-- FINAL: end the message and start the padding (41 R161). -/
  | final
  /-- RDBYTE k: read digest byte k, `k = OPD[3:0]` (44 R233). -/
  | rdbyte (k : BitVec 4)
  /-- RDHEX k: read hex character k, `k = OPD[4:0]` (44 R234). -/
  | rdhex (k : BitVec 5)
  /-- RDSTAT: read the status register (44 R235). -/
  | rdstat
  deriving DecidableEq, Repr

end Sys2Proof
end

