-- ==== Sys2Proof/WellFormed.lean ====
section
/-! DEFINITION. Which command words are well formed: the clauses of 30 R107, written as arithmetic on the word's value
and not through the decoder, so that "the decoder refuses exactly the malformed words" says something. -/

namespace Sys2Proof

namespace WellFormed

/-- The value of OP, bits 15:12 (30 R100). -/
def op (w : CmdWord) : Nat := w.toNat / 4096

/-- The value of RSV, bits 11:8 (30 R100). -/
def rsv (w : CmdWord) : Nat := w.toNat / 256 % 16

/-- The value of OPD, bits 7:0 (30 R100). -/
def opd (w : CmdWord) : Nat := w.toNat % 256

/-- 30 R107, first clause: OP is one of the six assigned opcodes. -/
def opAssigned (w : CmdWord) : Bool := decide (1 ≤ op w ∧ op w ≤ 6)

/-- 30 R107, second clause: the reserved field is 0. -/
def rsvZero (w : CmdWord) : Bool := decide (rsv w = 0)

/-- 30 R107, third clause: INIT, FINAL and RDSTAT take no operand. -/
def noOperand (w : CmdWord) : Bool := decide (op w = 1 ∨ op w = 3 ∨ op w = 6 → opd w = 0)

/-- 30 R107, fourth clause: RDBYTE's index is below 16. -/
def byteIndex (w : CmdWord) : Bool := decide (op w = 4 → opd w < 16)

/-- 30 R107, fifth clause: RDHEX's index is below 32. -/
def hexIndex (w : CmdWord) : Bool := decide (op w = 5 → opd w < 32)

/-- A word is well formed when it is not malformed (30 R107). -/
def word (w : CmdWord) : Bool := opAssigned w && rsvZero w && noOperand w && byteIndex w && hexIndex w

end WellFormed

end Sys2Proof
end

