-- ==== Sys2Proof/Decode.lean ====
section
/-! DEFINITION. The decoder of command words (30 R106), total on all 65536 of them and rejecting by name, then the encoder,
written from the patterns of 30 R105, and the rows of that table. -/

namespace Sys2Proof

/-- `OP`, bits 15:12 of a command word (30 R100). -/
def opField (w : CmdWord) : BitVec 4 := w.extractLsb' 12 4

/-- `RSV`, bits 11:8 of a command word (30 R100). -/
def rsvField (w : CmdWord) : BitVec 4 := w.extractLsb' 8 4

/-- `OPD`, bits 7:0 of a command word (30 R100). -/
def opdField (w : CmdWord) : BitVec 8 := w.extractLsb' 0 8

/-- Why a word is malformed (30 R107). All three are the one cause MALFORMED of 60 R263. -/
inductive MalformedReason where
  /-- RSV is not 0. -/
  | reservedField
  /-- OP is 0x0 or 0x7..0xF. -/
  | reservedOpcode
  /-- A must-be-zero bit of OPD is set. -/
  | operandBits
  deriving DecidableEq, Repr

/-- What the decoder answers: `Cmd | MALFORMED` (30 R106). -/
inductive Decoded where
  | command (i : Instr)
  | malformed (why : MalformedReason)
  deriving DecidableEq, Repr

/-- `decode(w)` of 30 R106. -/
def decode (w : CmdWord) : Decoded :=
  let opd := opdField w
  if rsvField w ≠ 0 then .malformed .reservedField
  else match (opField w).toNat with
    | 1 => if opd = 0 then .command .init else .malformed .operandBits
    | 2 => .command (.push opd)
    | 3 => if opd = 0 then .command .final else .malformed .operandBits
    | 4 => if opd.extractLsb' 4 4 = 0 then .command (.rdbyte (opd.extractLsb' 0 4)) else .malformed .operandBits
    | 5 => if opd.extractLsb' 5 3 = 0 then .command (.rdhex (opd.extractLsb' 0 5)) else .malformed .operandBits
    | 6 => if opd = 0 then .command .rdstat else .malformed .operandBits
    | _ => .malformed .reservedOpcode

/-- The word of a command: the pattern column of 30 R105. -/
def encode : Instr → CmdWord
  | .init => 0x1000#16
  | .push b => 0b00100000#8 ++ b
  | .final => 0x3000#16
  | .rdbyte k => 0b010000000000#12 ++ k
  | .rdhex k => 0b01010000000#11 ++ k
  | .rdstat => 0x6000#16

/-- The mnemonic of a command, as spec/opcode_table.json spells it. -/
def mnemonic : Instr → String
  | .init => "INIT"
  | .push _ => "PUSH"
  | .final => "FINAL"
  | .rdbyte _ => "RDBYTE"
  | .rdhex _ => "RDHEX"
  | .rdstat => "RDSTAT"

/-- The match and mask columns of 30 R105, for the row of a mnemonic. -/
def matchMask : String → Option (CmdWord × CmdWord)
  | "INIT" => some (0x1000#16, 0xFFFF#16)
  | "PUSH" => some (0x2000#16, 0xFF00#16)
  | "FINAL" => some (0x3000#16, 0xFFFF#16)
  | "RDBYTE" => some (0x4000#16, 0xFFF0#16)
  | "RDHEX" => some (0x5000#16, 0xFFE0#16)
  | "RDSTAT" => some (0x6000#16, 0xFFFF#16)
  | _ => none

/-- A word selects a row when `(w & mask) = match` (30 R105). -/
def selectsRow (w : CmdWord) (m : String) : Bool :=
  match matchMask m with
  | some (mt, mask) => decide (w &&& mask = mt)
  | none => false

/-- The decoder on a word numbered as spec/opcode_table.json numbers its bits. A command is one 16-bit word (30 R109): the
bits at and above `nbits` are 0, and a number that does not fit 16 bits is no command. -/
def decodeTableWord (nbits w : Nat) : Option Instr :=
  let v := w % 2 ^ nbits
  if v < 65536 then
    match decode (BitVec.ofNat 16 v) with
    | .command i => some i
    | .malformed _ => none
  else none

end Sys2Proof
end

