-- ==== Sys2Proof/Config.lean ====
section
/-! DEFINITION. The widths and counts the spec fixes (00 R6, R7): constants, not parameters. The spec leaves no value open
that a rule reads (70 R293), so there is no free value here. The ROMs, which a test could show wrong, stand in
Machine/Roms.lean. -/

namespace Sys2Proof.Config

/-- Bytes in a block (00 R6). -/
def blockBytes : Nat := 64

/-- Message words in a block (00 R6). -/
def blockWords : Nat := 16

/-- Rounds in a compression (00 R6). -/
def rounds : Nat := 64

/-- Bytes of the length field at the end of the padded message (00 R6, 41 R160). -/
def lenBytes : Nat := 8

/-- Where the length field stands in the last block (41 R162). -/
def lenOffset : Nat := 56

/-- Bytes of the digest (00 R6). -/
def digestBytes : Nat := 16

/-- Hex characters of the digest (00 R6). -/
def hexChars : Nat := 32

end Sys2Proof.Config
end

