-- ==== Sys2Proof/Machine/State.lean ====
section
/-! DEFINITION. The state of the engine, whole (10 R30), with the host's side of the command port and the observation of a
run (70 R302); the reasons a step can stop; and the state after reset (10 R50). -/

namespace Sys2Proof.Machine

/-- PH, the 3-bit sequencer phase (10 R40). Code 7 is never reached; it is kept so that a state in it can be refused
(93 I7). -/
inductive Phase where
  | idle | absorb | pad | parse | round | accum | done
  /-- Code 7, which no rule gives a meaning. -/
  | code7
  deriving DecidableEq, Repr

/-- ECODE, the 2-bit cause of the first command error (10 R44). Code 3 is reserved and never produced; it is kept so that
a state in it can be refused (93 I8). -/
inductive ECode where
  /-- 0 NONE. -/
  | noError
  /-- 1 MALFORMED. -/
  | malformed
  /-- 2 PHASE. -/
  | phase
  /-- 3, reserved. -/
  | code3
  deriving DecidableEq, Repr

/-- The causes of a command error (60 R263). -/
inductive CmdError where
  | malformed | phase
  deriving DecidableEq, Repr

/-- What the host does at one step of its stream (92 D1, 30 R102, 70 R290). DESIGN CHOICE, safe,
notes/assumptions/3.md. -/
inductive HostInput where
  /-- `cmd_valid = 1` with this word; it stays presented until it is accepted. -/
  | command (w : CmdWord)
  /-- `rst = 1`. -/
  | reset
  /-- Neither: `rst = 0`, `cmd_valid = 0`. -/
  | idle
  deriving DecidableEq, Repr

/-- The engine, its command and response ports, and the record of the run. The names of 10 R30 are kept. -/
structure State where
  /-- Chaining register A (10 R31). -/
  A : Word
  /-- Chaining register B (10 R31). -/
  B : Word
  /-- Chaining register C (10 R31). -/
  C : Word
  /-- Chaining register D (10 R31). -/
  D : Word
  /-- Working register a (10 R32). -/
  a : Word
  /-- Working register b (10 R32). -/
  b : Word
  /-- Working register c (10 R32). -/
  c : Word
  /-- Working register d (10 R32). -/
  d : Word
  /-- Message words of the current block (10 R33). -/
  W : Vector Word 16
  /-- Block buffer (10 R34). -/
  BUF : Vector Byte 64
  /-- Number of valid bytes in BUF (10 R35). -/
  CNT : BitVec 7
  /-- Message bit length modulo two to the 64 (10 R36). -/
  LEN : LenWord
  /-- Index of the next round (10 R37). -/
  RND : BitVec 6
  /-- FINAL has been accepted for the open message (10 R38). -/
  FIN : Bool
  /-- The length field is in BUF (10 R39). -/
  LENW : Bool
  /-- Sequencer phase (10 R40). -/
  PH : Phase
  /-- A command error has occurred (10 R44). -/
  ERR : Bool
  /-- Cause of the first command error (10 R44). -/
  ECODE : ECode
  /-- The host's stream still to come, the command port's word first (10 R42, 30 R102). -/
  inputs : List HostInput
  /-- The response channel after the last step: `rsp_valid` with `rsp_data`, or no response (30 R101, R103). -/
  rsp : Option Byte
  /-- The response bytes the host has taken, oldest first (70 R302). -/
  responses : List Byte
  /-- Every command error so far, oldest first; no step clears it (60 R268). -/
  faultLog : List CmdError
  deriving DecidableEq, Repr

/-- Why the machine stops with a fault. -/
inductive Fault where
  /-- Raised by PUSH and FINAL in ABSORB when CNT is not below 64: BUF has no byte CNT (10 R34, R35). Safe: the spec gives
  no effect, and no run from reset reaches such a state (10 R49). -/
  | bufIndexOutOfRange (cnt : BitVec 7)
  deriving DecidableEq, Repr

/-- Why a step is refused. -/
inductive Refusal where
  /-- Raised by an arm of `exec` whose instruction has no meaning yet. Safe. No arm does so. -/
  | notModelled (mnemonic : String)
  /-- Raised by every command and step, reset apart, in a state whose PH is code 7 (93 I7). Safe. -/
  | phaseCode7
  /-- Raised by every command and step, reset apart, in a state whose ECODE is 3 (93 I8). Safe. -/
  | ecodeCode3
  deriving DecidableEq, Repr

/-- The machine right after reset (10 R50). The values of A..D, a..d, W, BUF, CNT, LEN and RND are unspecified there: 0 is
this model's choice. DESIGN CHOICE, unsafe, notes/assumptions/1.md. -/
def State.reset : State where
  A := 0
  B := 0
  C := 0
  D := 0
  a := 0
  b := 0
  c := 0
  d := 0
  W := Vector.replicate 16 0
  BUF := Vector.replicate 64 0
  CNT := 0
  LEN := 0
  RND := 0
  FIN := false
  LENW := false
  PH := .idle
  ERR := false
  ECODE := .noError
  inputs := []
  rsp := none
  responses := []
  faultLog := []

end Sys2Proof.Machine
end

