-- ==== Sys2Proof/Machine/Flags.lean ====
section
/-! DEFINITION. The status view (10 R43, R45), the codes of ECODE, and the legality of a command in a phase (60 R261). The
engine has no arithmetic flags (10 R48). -/

namespace Sys2Proof.Machine

/-- The engine is busy exactly in PAD, PARSE, ROUND and ACCUM (10 R43). -/
def Phase.busy : Phase → Bool
  | .pad | .parse | .round | .accum => true
  | .idle | .absorb | .done | .code7 => false

/-- Busy (10 R43). -/
def State.busy (s : State) : Bool := s.PH.busy

/-- The port `cmd_ready`: 1 iff not busy (30 R101, 10 R43). -/
def State.cmdReady (s : State) : Bool := !s.busy

/-- The port `rsp_valid` (30 R101). -/
def State.rspValid (s : State) : Bool := s.rsp.isSome

/-- The 2-bit code of ECODE (10 R44). -/
def ECode.bits : ECode → BitVec 2
  | .noError => 0
  | .malformed => 1
  | .phase => 2
  | .code3 => 3

/-- The ECODE a command error records (60 R263). -/
def CmdError.code : CmdError → ECode
  | .malformed => .malformed
  | .phase => .phase

/-- ECODE after a command error: the first cause since INIT or reset is kept (60 R262). -/
def firstCause : ECode → CmdError → ECode
  | .noError, e => e.code
  | .malformed, _ => .malformed
  | .phase, _ => .phase
  | .code3, _ => .code3

/-- STATUS (10 R45): bits 7:6 zero, ECODE, ERR, DONE, OPEN, READY. It is also the port `status` (30 R101). -/
def State.status (s : State) : Byte :=
  0#2 ++ s.ECODE.bits ++ BitVec.ofBool s.ERR ++ BitVec.ofBool (decide (s.PH = .done))
    ++ BitVec.ofBool (decide (s.PH = .absorb)) ++ BitVec.ofBool (!s.busy)

/-- The entries of the legality table (60 R261). -/
inductive Legality where
  /-- "yes": the command executes. -/
  | executes
  /-- "PHASE": the command is a command error of cause PHASE. -/
  | phaseError
  /-- "held": the command is not accepted. -/
  | held
  deriving DecidableEq, Repr

/-- The table of 60 R261. It has no column for PH code 7, which `State.reservedCode` refuses before this is asked. -/
def legality (i : Instr) (p : Phase) : Legality :=
  if p.busy then .held
  else match i with
    | .init | .rdstat => .executes
    | .push _ | .final => if p = .absorb then .executes else .phaseError
    | .rdbyte _ | .rdhex _ => if p = .done then .executes else .phaseError

/-- A state no rule gives a meaning: PH code 7 or ECODE 3 (93 I7, I8). DEDUCED, safe, notes/assumptions/7.md. -/
def State.reservedCode (s : State) : Option Refusal :=
  if s.PH = .code7 then some .phaseCode7
  else if s.ECODE = .code3 then some .ecodeCode3
  else none

end Sys2Proof.Machine
end

