-- ==== Sys2Proof/Machine/Roms.lean ====
section
/-! DEFINITION. The read-only constants of the engine: the initial value, the T ROM and the S ROM (10 R47, 40 R140,
43 R190, R191). -/

namespace Sys2Proof.Machine

/-- Four 32-bit words together: a chaining value A, B, C, D or the working variables a, b, c, d. -/
structure Quad where
  a : Word
  b : Word
  c : Word
  d : Word
  deriving DecidableEq, Repr

/-- The initial chaining value (40 R140). -/
def iv : Quad := ⟨0x67452301#32, 0xefcdab89#32, 0x98badcfe#32, 0x10325476#32⟩

/-- The words of the T ROM, in the order of the round-control table (43 R190 and the table after R191). -/
def romT : Vector Word 64 :=
  #v[
    0xd76aa478#32, 0xe8c7b756#32, 0x242070db#32, 0xc1bdceee#32,
    0xf57c0faf#32, 0x4787c62a#32, 0xa8304613#32, 0xfd469501#32,
    0x698098d8#32, 0x8b44f7af#32, 0xffff5bb1#32, 0x895cd7be#32,
    0x6b901122#32, 0xfd987193#32, 0xa679438e#32, 0x49b40821#32,
    0xf61e2562#32, 0xc040b340#32, 0x265e5a51#32, 0xe9b6c7aa#32,
    0xd62f105d#32, 0x02441453#32, 0xd8a1e681#32, 0xe7d3fbc8#32,
    0x21e1cde6#32, 0xc33707d6#32, 0xf4d50d87#32, 0x455a14ed#32,
    0xa9e3e905#32, 0xfcefa3f8#32, 0x676f02d9#32, 0x8d2a4c8a#32,
    0xfffa3942#32, 0x8771f681#32, 0x6d9d6122#32, 0xfde5380c#32,
    0xa4beea44#32, 0x4bdecfa9#32, 0xf6bb4b60#32, 0xbebfbc70#32,
    0x289b7ec6#32, 0xeaa127fa#32, 0xd4ef3085#32, 0x04881d05#32,
    0xd9d4d039#32, 0xe6db99e5#32, 0x1fa27cf8#32, 0xc4ac5665#32,
    0xf4292244#32, 0x432aff97#32, 0xab9423a7#32, 0xfc93a039#32,
    0x655b59c3#32, 0x8f0ccc92#32, 0xffeff47d#32, 0x85845dd1#32,
    0x6fa87e4f#32, 0xfe2ce6e0#32, 0xa3014314#32, 0x4e0811a1#32,
    0xf7537e82#32, 0xbd3af235#32, 0x2ad7d2bb#32, 0xeb86d391#32
  ]

/-- `T[i]` (43 R190). -/
def roundConst (i : BitVec 6) : Word := romT[i.toNat]'i.isLt

/-- The four-value pattern of each round group, `P` of 43 R191. -/
def shiftPattern : Vector (Vector Nat 4) 4 :=
  #v[#v[7, 12, 17, 22], #v[5, 9, 14, 20], #v[4, 11, 16, 23], #v[6, 10, 15, 21]]

/-- `S[i] = P[i div 16][i mod 4]` (43 R191). -/
def shiftAmount (i : BitVec 6) : Nat :=
  (shiftPattern[i.toNat / 16]'(by have := i.isLt; omega))[i.toNat % 4]'(Nat.mod_lt _ (by decide))

end Sys2Proof.Machine
end

