-- ==== Sys2Proof/Machine/Operands.lean ====
section
/-! DEFINITION. Byte order and the views commands read: `byte`, `le32` (00 R11), the digest bytes DB and the hex characters
HEX of the output formatter (44 R231, R232). -/

namespace Sys2Proof.Machine

/-- `byte(x, k) = x[8k+7:8k]` (00 R11). -/
def byteOf {n : Nat} (x : BitVec n) (k : Nat) : Byte := x.extractLsb' (8 * k) 8

/-- `le32(b0, b1, b2, b3) = b3 ‖ b2 ‖ b1 ‖ b0` (00 R11). -/
def le32 (b0 b1 b2 b3 : Byte) : Word := b3 ++ b2 ++ b1 ++ b0

/-- The chaining state A, B, C, D as one value (10 R31). -/
def State.chain (s : State) : Quad := ⟨s.A, s.B, s.C, s.D⟩

/-- The working variables a, b, c, d as one value (10 R32). -/
def State.work (s : State) : Quad := ⟨s.a, s.b, s.c, s.d⟩

/-- `X[j]` with `X = [A, B, C, D]` (44 R231). -/
def Quad.word (q : Quad) (j : Nat) : Word :=
  match j with
  | 0 => q.a
  | 1 => q.b
  | 2 => q.c
  | _ => q.d

/-- `DB[k] = byte(X[k div 4], k mod 4)` (44 R231). -/
def digestByte (q : Quad) (k : Nat) : Byte := byteOf (q.word (k / 4)) (k % 4)

/-- `nib(k)`: the high nibble of `DB[k div 2]` for even k, its low nibble for odd k (44 R232). -/
def digestNibble (q : Quad) (k : Nat) : BitVec 4 :=
  if k % 2 = 0 then (digestByte q (k / 2)).extractLsb' 4 4 else (digestByte q (k / 2)).extractLsb' 0 4

/-- The character of a nibble: '0'..'9' and 'a'..'f' in ASCII (44 R232; DESIGN CHOICE of the spec's D8, unsafe,
notes/assumptions/10.md). -/
def hexOfNibble (n : BitVec 4) : Byte :=
  if n.toNat < 10 then 0x30 + n.setWidth 8 else 0x61 + (n.setWidth 8 - 10)

/-- `HEX[k]` (44 R232). -/
def hexChar (q : Quad) (k : Nat) : Byte := hexOfNibble (digestNibble q k)

end Sys2Proof.Machine
end

