-- ==== Sys2Proof/Machine/Ops.lean ====
section
/-! DEFINITION. The named operations on the state that the meanings share: writing the chaining and working registers, the
block buffer and the response channel, taking the engine's one exception (a command error, 60 R262), the reset event
(70 R290), and the stages a decoded command goes through (60 R260). -/

namespace Sys2Proof.Machine

/-- How a step ends, on this machine. -/
abbrev Result := Host.Outcome State Fault Refusal

/-- Go on from a next state; a fault or a refusal stays. -/
def andThen (r : Result) (f : State → Result) : Result :=
  match r with
  | .next s => f s
  | .fault e => .fault e
  | .refused e => .refused e

/-- `(A, B, C, D) <- q`, a simultaneous write (00 R12). -/
def State.setChain (s : State) (q : Quad) : State := { s with A := q.a, B := q.b, C := q.c, D := q.d }

/-- `(a, b, c, d) <- q`, a simultaneous write (00 R12). -/
def State.setWork (s : State) (q : Quad) : State := { s with a := q.a, b := q.b, c := q.c, d := q.d }

/-- `BUF[CNT] <- v; CNT <- CNT + 1`, the only way a command writes BUF (20 R71). There is no `BUF[j]` for j of 64 and
more: the fault there is a DESIGN CHOICE, safe, notes/assumptions/6.md. -/
def appendByte (v : Byte) (s : State) : Result :=
  if h : s.CNT.toNat < 64 then .next { s with BUF := s.BUF.set s.CNT.toNat v h, CNT := s.CNT + 1 }
  else .fault (.bufIndexOutOfRange s.CNT)

/-- `respond(v)`: put v on the response channel (00 R12, 30 R103). -/
def State.respond (s : State) (v : Byte) : State := { s with rsp := some v }

/-- The commands whose acceptance yields a response: OP 0x4, 0x5 and 0x6 (30 R103). -/
def responds (w : CmdWord) : Bool :=
  opField w = 4 || opField w = 5 || opField w = 6

/-- `raise CmdError(code)` for the accepted word w (60 R262): ERR is set, ECODE keeps the first cause, a read answers 0x00,
and the error is logged (60 R268). Nothing else changes; there is no trap and nothing to return from (60 R266, R267). -/
def raiseCmdError (w : CmdWord) (e : CmdError) (s : State) : State :=
  { s with
    ERR := true
    ECODE := firstCause s.ECODE e
    rsp := if responds w then some 0x00 else s.rsp
    faultLog := s.faultLog ++ [e] }

/-- The end of the cycle in which a response was valid: the host takes the byte and the channel is empty again
(30 R103). DESIGN CHOICE, safe, notes/assumptions/4.md. -/
def State.deliver (s : State) : State := { s with rsp := none, responses := s.responses ++ s.rsp.toList }

/-- The stream after its first input. -/
def State.setInputs (s : State) (l : List HostInput) : State := { s with inputs := l }

/-- The reset event (70 R290): the values of 10 R50, and a response pending from the previous edge is dropped. What the
host has seen and still has to send, and the fault log, are not the engine's (60 R268, 70 R302; DEDUCED, safe, notes/assumptions/5.md). The unspecified registers take
State.reset's values: DESIGN CHOICE, unsafe, notes/assumptions/1.md. -/
def applyReset (s : State) : State :=
  { State.reset with inputs := s.inputs, responses := s.responses, faultLog := s.faultLog }

/-- 60 R260 for a decoded command, from the legality check on: it executes, or is a command error of cause PHASE, or is
held (nothing happens; `step` never asks while busy: DESIGN CHOICE, safe, notes/assumptions/8.md). A state in a reserved
code is refused. -/
def runCommand (i : Instr) (effect : State → Result) (s : State) : Result :=
  match s.reservedCode with
  | some r => .refused r
  | none =>
    match legality i s.PH with
    | .executes => effect s
    | .phaseError => .next (raiseCmdError (encode i) .phase s)
    | .held => .next s

end Sys2Proof.Machine
end

