-- ==== Sys2Proof/Machine/Message.lean ====
section
/-! DEFINITION. Message input: INIT and PUSH (spec/40_message_input.md). -/

namespace Sys2Proof.Machine

/-- The pseudocode of INIT (40 R141). -/
def initEffect (s : State) : Result :=
  .next { s.setChain iv with
    CNT := 0
    LEN := 0
    FIN := false
    LENW := false
    ERR := false
    ECODE := .noError
    PH := .absorb }

/-- INIT (40 R141). -/
def execInit (s : State) : Result := runCommand .init initEffect s

/-- `if CNT == 64 then PH <- PARSE` (40 R144): the block is full. -/
def phaseAfterPush (cnt : BitVec 7) (p : Phase) : Phase := if cnt = 64 then .parse else p

/-- The pseudocode of PUSH b (40 R144). -/
def pushEffect (b : Byte) (s : State) : Result :=
  andThen (appendByte b s) fun t =>
    .next { t with LEN := t.LEN + 8, PH := phaseAfterPush t.CNT t.PH }

/-- PUSH b (40 R144). -/
def execPush (b : BitVec 8) (s : State) : Result := runCommand (.push b) (pushEffect b) s

end Sys2Proof.Machine
end

