-- ==== Sys2Proof/Machine/Output.lean ====
section
/-! DEFINITION. Accumulation and output: the micro-step ACCUM, RDBYTE, RDHEX and RDSTAT
(spec/44_accumulate_and_output.md). -/

namespace Sys2Proof.Machine

/-- Word-wise addition modulo two to the 32 (44 R230). -/
def Quad.add (p q : Quad) : Quad := ⟨p.a + q.a, p.b + q.b, p.c + q.c, p.d + q.d⟩

/-- Where ACCUM goes, by FIN and LENW: more message bytes, the digest, or the second padding block (44 R230). -/
def phaseAfterAccum : Bool → Bool → Phase
  | false, _ => .absorb
  | true, true => .done
  | true, false => .pad

/-- ACCUM (44 R230). -/
def microAccum (s : State) : State :=
  { s.setChain (s.chain.add s.work) with
    CNT := 0
    PH := phaseAfterAccum s.FIN s.LENW }

/-- The pseudocode of RDBYTE k: `respond(DB[k])` (44 R233). -/
def rdbyteEffect (k : BitVec 4) (s : State) : Result := .next (s.respond (digestByte s.chain k.toNat))

/-- RDBYTE k (44 R233). -/
def execRdbyte (k : BitVec 4) (s : State) : Result := runCommand (.rdbyte k) (rdbyteEffect k) s

/-- The pseudocode of RDHEX k: `respond(HEX[k])` (44 R234). -/
def rdhexEffect (k : BitVec 5) (s : State) : Result := .next (s.respond (hexChar s.chain k.toNat))

/-- RDHEX k (44 R234). -/
def execRdhex (k : BitVec 5) (s : State) : Result := runCommand (.rdhex k) (rdhexEffect k) s

/-- The pseudocode of RDSTAT: `respond(STATUS)` (44 R235). -/
def rdstatEffect (s : State) : Result := .next (s.respond s.status)

/-- RDSTAT (44 R235). -/
def execRdstat (s : State) : Result := runCommand .rdstat rdstatEffect s

end Sys2Proof.Machine
end

