-- ==== Sys2Proof/Machine/Padding.lean ====
section
/-! DEFINITION. Message padding: FINAL and the micro-step PAD (spec/41_padding.md). -/

namespace Sys2Proof.Machine

/-- The pseudocode of FINAL (41 R161). -/
def finalEffect (s : State) : Result :=
  andThen (appendByte 0x80 s) fun t => .next { t with FIN := true, PH := .pad }

/-- FINAL (41 R161). -/
def execFinal (s : State) : Result := runCommand .final finalEffect s

/-- Byte j of BUF after PAD (41 R162): bytes below CNT stay; above them zeros, and, where CNT leaves room, the length field
at 56..63, low-order byte first (20 R76). -/
def padByte (buf : Vector Byte 64) (cnt : BitVec 7) (len : LenWord) (j : Fin 64) : Byte :=
  if cnt.toNat ≤ 56 then
    if j.val < cnt.toNat then buf[j] else if j.val < 56 then 0x00 else byteOf len (j.val - 56)
  else
    if j.val < cnt.toNat then buf[j] else 0x00

/-- LENW after PAD: set when the length field had room, that is when CNT was at most 56 (41 R162). -/
def lengthPlaced (cnt : BitVec 7) (lenw : Bool) : Bool := decide (cnt.toNat ≤ 56) || lenw

/-- PAD (41 R162). -/
def microPad (s : State) : State :=
  { s with
    BUF := Vector.ofFn (padByte s.BUF s.CNT s.LEN)
    LENW := lengthPlaced s.CNT s.LENW
    CNT := 64
    PH := .parse }

end Sys2Proof.Machine
end

