-- ==== Sys2Proof/Machine/Parser.lean ====
section
/-! DEFINITION. The message-block parser: the micro-step PARSE (spec/42_block_parser.md). -/

namespace Sys2Proof.Machine

/-- `le32(BUF[4j], BUF[4j+1], BUF[4j+2], BUF[4j+3])` (42 R180, 20 R75). -/
def blockWord (buf : Vector Byte 64) (j : Fin 16) : Word :=
  le32 (buf[4 * j.val]'(by omega)) (buf[4 * j.val + 1]'(by omega)) (buf[4 * j.val + 2]'(by omega))
    (buf[4 * j.val + 3]'(by omega))

/-- PARSE (42 R180). -/
def microParse (s : State) : State :=
  { s.setWork s.chain with W := Vector.ofFn (blockWord s.BUF), RND := 0, PH := .round }

end Sys2Proof.Machine
end

