-- ==== Sys2Proof/Machine/Round.lean ====
section
/-! DEFINITION. The round-function datapath: function select, logical-function mux, message-word index, four-input adder,
left rotator, and the micro-step ROUND (spec/43_round_function.md). -/

namespace Sys2Proof.Machine

/-- `fsel = i[5:4]` (43 R192). -/
def fsel (i : BitVec 6) : BitVec 2 := i.extractLsb' 4 2

/-- F0 (43 R193): c where b is 1, d where b is 0. -/
def F0 (b c d : Word) : Word := (b &&& c) ||| (~~~b &&& d)

/-- F1 (43 R193): b where d is 1, c where d is 0. -/
def F1 (b c d : Word) : Word := (d &&& b) ||| (~~~d &&& c)

/-- F2 (43 R193). -/
def F2 (b c d : Word) : Word := b ^^^ c ^^^ d

/-- F3 (43 R193). -/
def F3 (b c d : Word) : Word := c ^^^ (b ||| ~~~d)

/-- The logical-function mux (43 R193). -/
def muxF (sel : BitVec 2) (b c d : Word) : Word :=
  match sel.toNat with
  | 0 => F0 b c d
  | 1 => F1 b c d
  | 2 => F2 b c d
  | _ => F3 b c d

/-- The message-word index g, a 4-bit value, so each formula is taken modulo 16 (43 R194). -/
def gidx (i : BitVec 6) : BitVec 4 :=
  match (fsel i).toNat with
  | 0 => BitVec.ofNat 4 i.toNat
  | 1 => BitVec.ofNat 4 (5 * i.toNat + 1)
  | 2 => BitVec.ofNat 4 (3 * i.toNat + 5)
  | _ => BitVec.ofNat 4 (7 * i.toNat)

/-- The four-input adder (43 R195). -/
def adder4 (f a t w : Word) : Word := f + a + t + w

/-- The left rotator (43 R196); `rotl(x, 0) = x`. -/
def rotl (x : Word) (n : Nat) : Word :=
  if n = 0 then x else (x <<< n) ||| (x >>> (32 - n))

/-- One round i on the working variables (43 R197). All four are written at once, from the values before (70 R296). -/
def roundStep (i : BitVec 6) (W : Vector Word 16) (q : Quad) : Quad :=
  let t := adder4 (muxF (fsel i) q.b q.c q.d) q.a (roundConst i) (W[(gidx i).toNat]'(gidx i).isLt)
  let newB := q.b + rotl t (shiftAmount i)
  ⟨q.d, newB, q.b, q.c⟩

/-- RND after ROUND: the next round, but the last keeps its index (43 R197). -/
def nextRound (i : BitVec 6) : BitVec 6 := if i = 63 then i else i + 1

/-- `if i == 63 then PH <- ACCUM` (43 R197). -/
def phaseAfterRound (i : BitVec 6) (p : Phase) : Phase := if i = 63 then .accum else p

/-- ROUND (43 R197). -/
def microRound (s : State) : State :=
  { s.setWork (roundStep s.RND s.W s.work) with
    RND := nextRound s.RND
    PH := phaseAfterRound s.RND s.PH }

end Sys2Proof.Machine
end

