-- ==== Sys2Proof/Machine/Sequencer.lean ====
section
/-! DEFINITION. Who moves at a step, and how (10 R41 to R43, 60 R260): the engine's micro-step while busy, the host's next
action otherwise, reset in every state. -/

namespace Sys2Proof.Machine

/-- The micro-step PH selects (30 R110). It is asked only while busy. -/
def microStep (s : State) : State :=
  match s.PH with
  | .pad => microPad s
  | .parse => microParse s
  | .round => microRound s
  | .accum => microAccum s
  | .idle | .absorb | .done | .code7 => s

/-- `accept(w)` (60 R260): decode, then the command's own stages. -/
def acceptWord (w : CmdWord) (s : State) : Result :=
  match decode w with
  | .malformed _ => .next (raiseCmdError w .malformed s)
  | .command i => exec i s

/-- A step at which the host does not assert reset. The response of the step before has been taken (30 R103). A busy engine
takes its micro-step, and the host's stream becomes `whileBusy`; an engine that is not busy does what the host asks. -/
def engineFirst (whileBusy : List HostInput) (onReady : Result) (s : State) : Result :=
  match s.reservedCode with
  | some r => .refused r
  | none => if s.busy then .next (microStep (s.deliver.setInputs whileBusy)) else onReady

/-- One step. Reset is taken in every state (70 R290). A presented command is held while the engine is busy, and accepted
otherwise (30 R102). A host that presents nothing lets a step pass, and so does one that has nothing more to send. -/
def oneStep (s : State) : Result :=
  match s.inputs with
  | .reset :: rest => .next (applyReset (s.setInputs rest))
  | .command w :: rest => engineFirst (.command w :: rest) (acceptWord w (s.deliver.setInputs rest)) s
  | .idle :: rest => engineFirst rest (.next (s.deliver.setInputs rest)) s
  | [] => engineFirst [] (.next s.deliver) s

/-- Present a command word at the command port, before everything else the host will send. -/
def presentWord (w : CmdWord) (s : State) : State := s.setInputs (.command w :: s.inputs)

end Sys2Proof.Machine
end

