-- ==== Sys2Proof/Machine/Step.lean ====
section
/-! DEFINITION. The step of the machine: one micro-step of the engine or one action of the host (00 R12). -/

namespace Sys2Proof.Machine

/-- One step (00 R12, 92 D1). It has no duration: DESIGN CHOICE, safe, notes/assumptions/2.md. -/
def step (s : State) : Host.Outcome State Fault Refusal := oneStep s

/-- The state in which the host presents this word at the command port, so that the next step of an engine that is not
busy accepts it. The engine fetches nothing (20 R87): its program is the host's stream (10 R42). DESIGN CHOICE,
safe, notes/assumptions/3.md. -/
def State.withFetchWord (s : State) (nbits w : Nat) : State :=
  presentWord (BitVec.ofNat 16 (w % 2 ^ nbits)) s

end Sys2Proof.Machine
end

