-- ==== Sys2Proof/Machine/Algorithm.lean ====
section
/-! DEFINITION. The algorithm the engine computes, as a function on byte lists, in the form the source's steps 2 to 6 have
(41 R160; the quotes of 43 R193 to R197 and 44 R230 to R232). It uses none of the datapath of Machine/Round.lean, none of
the padder, parser or formatter: statements of the engine's contract (44 R236) compare the two. The T values (43 R190) and
the initial value (40 R140) are the only tables the two share. -/

namespace Sys2Proof.Algorithm

open Sys2Proof.Machine

/-- z of step 2b: the smallest number of zeros that brings `L + 1 + z` to 56 modulo 64, `(55 - L) mod 64` (41 R160). -/
def zeros (L : Nat) : Nat := (119 - L % 64) % 64

/-- The length field of step 2c: `8 L` as 64 bits, low-order byte first (41 R160). -/
def lengthField (L : Nat) : List Byte :=
  (List.range 8).map fun k => BitVec.ofNat 8 (8 * L % 2 ^ 64 / 256 ^ k)

/-- `pad(MSG)` (41 R160). -/
def pad (msg : List Byte) : List Byte :=
  msg ++ [0x80#8] ++ List.replicate (zeros msg.length) 0x00#8 ++ lengthField msg.length

/-- Block n of a byte list: its bytes `64 n` to `64 n + 63` (20 R74). -/
def block (bytes : List Byte) (n : Nat) : Vector Byte 64 :=
  Vector.ofFn fun j => bytes.getD (64 * n + j.val) 0x00#8

/-- The consecutive whole blocks of a byte list (41 R165). -/
def blocks (bytes : List Byte) : List (Vector Byte 64) :=
  (List.range (bytes.length / 64)).map (block bytes)

/-- Step 4a: word g of a block, its least significant byte first (42 R180). -/
def message (blk : Vector Byte 64) (g : Nat) : Word :=
  BitVec.ofNat 32 ((blk.toList.getD (4 * g) 0).toNat + 2 ^ 8 * (blk.toList.getD (4 * g + 1) 0).toNat
    + 2 ^ 16 * (blk.toList.getD (4 * g + 2) 0).toNat + 2 ^ 24 * (blk.toList.getD (4 * g + 3) 0).toNat)

/-- Step 4c: the nonlinear function, by range of i (43 R193, source notation). -/
def nonlinear (i : Nat) (b0 c0 d0 : Word) : Word :=
  if i < 16 then (b0 &&& c0) ||| (~~~b0 &&& d0)
  else if i < 32 then (d0 &&& b0) ||| (~~~d0 &&& c0)
  else if i < 48 then b0 ^^^ c0 ^^^ d0
  else c0 ^^^ (b0 ||| ~~~d0)

/-- Step 4c: the message-word index, by range of i (43 R194). -/
def wordIndex (i : Nat) : Nat :=
  if i < 16 then i
  else if i < 32 then (5 * i + 1) % 16
  else if i < 48 then (3 * i + 5) % 16
  else 7 * i % 16

/-- Step 4c: the shift amount, each group of 16 rounds repeating its four values (43 R191). -/
def shift (i : Nat) : Nat :=
  (if i < 16 then [7, 12, 17, 22]
   else if i < 32 then [5, 9, 14, 20]
   else if i < 48 then [4, 11, 16, 23]
   else [6, 10, 15, 21]).getD (i % 4) 0

/-- T[i] (43 R190). -/
def constant (i : Nat) : Word := romT.toList.getD i 0

/-- Step 4c for one i: the source's assignments `F := ...; rotated := ...; newB := ...; a0 := d0; d0 := c0; c0 := b0;
b0 := newB`, in that order (43 R197). -/
def round (M : Nat → Word) (q : Quad) (i : Nat) : Quad :=
  let a0 := q.a
  let b0 := q.b
  let c0 := q.c
  let d0 := q.d
  let F := nonlinear i b0 c0 d0 + a0 + constant i + M (wordIndex i)
  let rotated := F.rotateLeft (shift i)
  let newB := b0 + rotated
  let a0 := d0
  let d0 := c0
  let c0 := b0
  let b0 := newB
  ⟨a0, b0, c0, d0⟩

/-- Step 4 for one block: 64 rounds from the chaining value, then the accumulation of step 4d (44 R230). -/
def compress (q : Quad) (blk : Vector Byte 64) : Quad :=
  let r := (List.range 64).foldl (round (message blk)) q
  ⟨q.a + r.a, q.b + r.b, q.c + r.c, q.d + r.d⟩

/-- Steps 2 to 4: the chaining value after the last block of the padded message. -/
def finalState (msg : List Byte) : Quad := (blocks (pad msg)).foldl compress iv

/-- Step 5: the little-endian bytes of A, then B, C and D (44 R231). -/
def digestBytes (q : Quad) : List Byte :=
  [q.a, q.b, q.c, q.d].flatMap fun x => (List.range 4).map fun k => BitVec.ofNat 8 (x.toNat / 256 ^ k)

/-- The lowercase hexadecimal digits in ASCII, '0' to '9' and 'a' to 'f' (44 R232). -/
def hexDigits : List Byte :=
  [0x30#8, 0x31#8, 0x32#8, 0x33#8, 0x34#8, 0x35#8, 0x36#8, 0x37#8, 0x38#8, 0x39#8,
   0x61#8, 0x62#8, 0x63#8, 0x64#8, 0x65#8, 0x66#8]

/-- Step 6: two characters a byte, the most significant nibble first (44 R232). -/
def renderHex (bytes : List Byte) : List Byte :=
  bytes.flatMap fun x => [hexDigits.getD (x.toNat / 16) 0, hexDigits.getD (x.toNat % 16) 0]

/-- The 32 characters of the digest of a byte message (44 R236). -/
def digest (msg : List Byte) : List Byte := renderHex (digestBytes (finalState msg))

end Sys2Proof.Algorithm
end

