-- ==== Sys2Proof/Machine/Assembler.lean ====
section
/-! DEFINITION. The assembler of the command stream: one line a command, `.word` for a raw word (30 R111), and the
pseudo-instructions (30 R112). Lines are taken as parsed; operands are the numbers written, so they can be out of range. -/

namespace Sys2Proof.Machine

/-- One line of assembler text, comments and blanks apart (30 R111). -/
inductive AsmLine where
  | init
  /-- `PUSH <byte>` with a number. -/
  | push (n : Nat)
  /-- `PUSH 'c'` with one character. -/
  | pushChar (ch : Char)
  | final
  | rdbyte (k : Nat)
  | rdhex (k : Nat)
  | rdstat
  /-- `.word <w16>`: the raw word, which may be malformed. -/
  | word (n : Nat)
  deriving DecidableEq, Repr

/-- The operand ranges of 30 R111. That an ASCII character is one below 128 is a DESIGN CHOICE, unsafe, notes/assumptions/11.md. -/
def AsmLine.inRange : AsmLine → Bool
  | .init | .final | .rdstat => true
  | .push n => decide (n ≤ 255)
  | .pushChar ch => decide (ch.toNat < 128)
  | .rdbyte k => decide (k ≤ 15)
  | .rdhex k => decide (k ≤ 31)
  | .word n => decide (n ≤ 65535)

/-- The word a line stands for, its operand in range. -/
def AsmLine.toWord : AsmLine → CmdWord
  | .init => encode .init
  | .push n => encode (.push (BitVec.ofNat 8 n))
  | .pushChar ch => encode (.push (BitVec.ofNat 8 ch.toNat))
  | .final => encode .final
  | .rdbyte k => encode (.rdbyte (BitVec.ofNat 4 k))
  | .rdhex k => encode (.rdhex (BitVec.ofNat 5 k))
  | .rdstat => encode .rdstat
  | .word n => BitVec.ofNat 16 n

/-- The assembler on one line; an operand out of range is an assembly error (30 R111). -/
def assemble (l : AsmLine) : Option CmdWord := if l.inRange then some l.toWord else none

/-- The pseudo-instructions (30 R112). PUSHS and HASH carry the text's bytes, which the host has encoded (00 R4). -/
inductive Pseudo where
  | pushb (bytes : List Byte)
  | pushs (bytes : List Byte)
  | rddigest
  | rdhexall
  | hash (bytes : List Byte)
  deriving DecidableEq, Repr

/-- `RDHEX 0` to `RDHEX 31` (30 R112). -/
def allHexReads : List Instr := (List.range 32).map fun k => .rdhex (BitVec.ofNat 5 k)

/-- The expansions of 30 R112. -/
def Pseudo.expand : Pseudo → List Instr
  | .pushb bytes => bytes.map .push
  | .pushs bytes => bytes.map .push
  | .rddigest => (List.range 16).map fun k => .rdbyte (BitVec.ofNat 4 k)
  | .rdhexall => allHexReads
  | .hash bytes => [Instr.init] ++ bytes.map Instr.push ++ [Instr.final] ++ allHexReads

/-- The host's stream that issues these commands, one after the other (10 R42). -/
def commandStream (l : List Instr) : List HostInput := l.map fun i => .command (encode i)

/-- The message bytes a stream of commands pushes. -/
def pushedBytes (l : List Instr) : List Byte :=
  l.filterMap fun i => match i with
    | .push b => some b
    | .init | .final | .rdbyte _ | .rdhex _ | .rdstat => none

end Sys2Proof.Machine
end

