-- ==== Sys2Proof/Safety.lean ====
section
/-! DEFINITION. The terms statements are made in: the invariant of the reachable states (10 R49), a host that waits, what a
run shows (70 R302), the blocks a run parses (41 R165), and when two states agree on everything a rule may read
(70 R293). -/

namespace Sys2Proof.Machine

/-- PH and ECODE hold codes the spec gives a meaning (93 I7, I8). -/
structure State.CodesAssigned (s : State) : Prop where
  ph : s.PH ≠ .code7
  ecode : s.ECODE ≠ .code3

/-- The invariants of every state reachable from reset (10 R49), with ECODE 3 never produced (10 R44). -/
structure State.Inv (s : State) : Prop where
  ph_ne_code7 : s.PH ≠ .code7
  idle : s.PH = .idle → s.FIN = false ∧ s.LENW = false
  absorb : s.PH = .absorb → s.CNT.toNat ≤ 63 ∧ s.FIN = false ∧ s.LENW = false
  pad : s.PH = .pad → s.FIN = true ∧ s.LENW = false ∧ s.CNT.toNat ≤ 64
  compressing : s.PH = .parse ∨ s.PH = .round ∨ s.PH = .accum → s.CNT = 64
  rnd : s.PH = .round → s.RND.toNat ≤ 63
  done : s.PH = .done → s.FIN = true ∧ s.LENW = true ∧ s.CNT = 0
  lenw_fin : s.LENW = true → s.FIN = true
  ecode_err : s.ECODE = .noError ↔ s.ERR = false
  ecode_ne_code3 : s.ECODE ≠ .code3

/-- The phases in which a command can be accepted (10 R43, 60 R261). -/
def State.Ready (s : State) : Prop := s.PH = .idle ∨ s.PH = .absorb ∨ s.PH = .done

/-- The host neither asserts reset nor lets a step pass: it holds a command at the port, or has nothing more to send. -/
def HostWaits (l : List HostInput) : Prop := l = [] ∨ ∃ w rest, l = .command w :: rest

/-- The host does not assert reset at the next step. It holds a word at the port, lets the step pass, or has nothing more to
send. -/
abbrev NoReset (l : List HostInput) : Prop := l.head? ≠ some .reset

/-- The host's stream after a micro-step of a busy engine: a presented word is held at the port (10 R43, 30 R102), and a step
the host lets pass is over. -/
def heldStream : List HostInput → List HostInput
  | [] => []
  | .command w :: rest => .command w :: rest
  | .idle :: rest => rest
  | .reset :: rest => .reset :: rest

/-- The next step accepts the word w: the engine is not busy and the host presents w (30 R102). -/
def State.accepts (s : State) (w : CmdWord) (rest : List HostInput) : Prop :=
  s.CodesAssigned ∧ s.Ready ∧ s.inputs = .command w :: rest

/-- The entry "yes" of the legality table for a phase in which commands are accepted (60 R261). -/
def Permitted (i : Instr) (p : Phase) : Prop :=
  match i with
  | .init | .rdstat => True
  | .push _ | .final => p = .absorb
  | .rdbyte _ | .rdhex _ => p = .done

/-- The bits of OP ask for a response (30 R103). -/
def AsksResponse (w : CmdWord) : Prop := WellFormed.op w = 4 ∨ WellFormed.op w = 5 ∨ WellFormed.op w = 6

/-- n steps of the machine, stopping at a fault or refusal. -/
def runFor (n : Nat) (s : State) : Host.Outcome State Fault Refusal := Sys2Proof.core.run n s

/-- The response bytes of a run so far, the one on the channel included (70 R302). -/
def State.observed (s : State) : List Byte := s.responses ++ s.rsp.toList

/-- A run has ended when the host's stream is empty and the engine is not busy. 70 R302 speaks of the last command alone; that
a step the host lets pass, or a reset, still to come after it belongs to the run is the model's choice. DESIGN CHOICE, safe,
notes/assumptions/14.md. -/
def State.runEnded (s : State) : Prop := s.inputs = [] ∧ s.busy = false

/-- No command error has been recorded: the premise of claims about correct programs (92 D25). -/
def State.faultFree (s : State) : Prop := s.faultLog = []

/-- The contents of BUF that PARSE reads during the next n steps, in order (41 R165). -/
def parsedBlocks : Nat → State → List (Vector Byte 64)
  | 0, _ => []
  | n + 1, s =>
    match step s with
    | .next t =>
      (if s.PH = .parse ∧ s.inputs.head? ≠ some .reset then [s.BUF] else []) ++ parsedBlocks n t
    | .fault _ => []
    | .refused _ => []

/-- Two states agree on everything a rule may read before it is written (70 R293): all that the host sees or sends, the
sequencer, and of the datapath what the phase keeps in use. -/
structure Agree (s t : State) : Prop where
  ph : s.PH = t.PH
  fin : s.FIN = t.FIN
  lenw : s.LENW = t.LENW
  err : s.ERR = t.ERR
  ecode : s.ECODE = t.ECODE
  inputs : s.inputs = t.inputs
  rsp : s.rsp = t.rsp
  responses : s.responses = t.responses
  faultLog : s.faultLog = t.faultLog
  chain : s.PH ≠ .idle → s.chain = t.chain ∧ s.CNT = t.CNT ∧ s.LEN = t.LEN
  buf : s.PH = .absorb ∨ s.PH = .pad ∨ s.PH = .parse → ∀ j : Fin 64, j.val < s.CNT.toNat → s.BUF[j] = t.BUF[j]
  work : s.PH = .round ∨ s.PH = .accum → s.work = t.work
  words : s.PH = .round → s.W = t.W ∧ s.RND = t.RND

end Sys2Proof.Machine
end

