-- ==== Sys2Proof/Certificates/Slice0/Obligations.lean ====
section
/-! DEFINITION. The statements for the provers: what the numbered rules of the spec say the engine does. A statement gives the
whole next state where it can, written out field by field against the state before, so that it says what changes and that
nothing else does. -/

open Sys2Proof Sys2Proof.Machine

/-! ### Command words -/

/-- Words of 95 V50, written out there. -/
def Obligations.DecoderReadsListedWords : Prop :=
  decode 0x1000#16 = .command .init ∧
  decode 0x2000#16 = .command (.push 0x00#8) ∧
  decode 0x20ff#16 = .command (.push 0xff#8) ∧
  decode 0x3000#16 = .command .final ∧
  decode 0x400f#16 = .command (.rdbyte 15#4) ∧
  decode 0x501f#16 = .command (.rdhex 31#5) ∧
  decode 0x6000#16 = .command .rdstat ∧
  (∀ w ∈ [0x1001#16, 0x1100#16, 0x2161#16, 0x3080#16, 0x4010#16, 0x5020#16, 0x6001#16, 0x0000#16, 0x7000#16, 0x8000#16,
      0xf000#16, 0xffff#16], ∃ why, decode w = .malformed why)

/-- 30 R106: a word decodes to a command exactly when it matches the command's row of 30 R105, with the operand taken from
the bits the row names, and is malformed exactly when it matches no row. -/
def Obligations.DecodeMatchesOpcodeRows : Prop :=
  ∀ w : CmdWord,
    (decode w = .command .init ↔ w &&& 0xFFFF#16 = 0x1000#16) ∧
    (∀ b : BitVec 8, decode w = .command (.push b) ↔ w &&& 0xFF00#16 = 0x2000#16 ∧ b.toNat = w.toNat % 2 ^ 8) ∧
    (decode w = .command .final ↔ w &&& 0xFFFF#16 = 0x3000#16) ∧
    (∀ k : BitVec 4, decode w = .command (.rdbyte k) ↔ w &&& 0xFFF0#16 = 0x4000#16 ∧ k.toNat = w.toNat % 2 ^ 4) ∧
    (∀ k : BitVec 5, decode w = .command (.rdhex k) ↔ w &&& 0xFFE0#16 = 0x5000#16 ∧ k.toNat = w.toNat % 2 ^ 5) ∧
    (decode w = .command .rdstat ↔ w &&& 0xFFFF#16 = 0x6000#16) ∧
    ((∃ why, decode w = .malformed why) ↔
      ¬ (w &&& 0xFFFF#16 = 0x1000#16 ∨ w &&& 0xFF00#16 = 0x2000#16 ∨ w &&& 0xFFFF#16 = 0x3000#16 ∨
         w &&& 0xFFF0#16 = 0x4000#16 ∨ w &&& 0xFFE0#16 = 0x5000#16 ∨ w &&& 0xFFFF#16 = 0x6000#16))

/-- Decoding and encoding are inverse to each other: a word decodes to a command exactly when it is that command's word,
and the table reading of the word gives the command. -/
def Obligations.DecodeAndEncodeAgree : Prop :=
  ∀ (w : CmdWord) (i : Instr),
    (decode w = .command i ↔ w = encode i) ∧ decodeTableWord 16 (encode i).toNat = some i

/-- 30 R107's clauses name exactly the words the decoder finds malformed. -/
def Obligations.MalformedWordsAreTheListedOnes : Prop :=
  ∀ w : CmdWord, (∃ why, decode w = .malformed why) ↔
    (WellFormed.op w = 0 ∨ 7 ≤ WellFormed.op w) ∨ WellFormed.rsv w ≠ 0 ∨
    ((WellFormed.op w = 1 ∨ WellFormed.op w = 3 ∨ WellFormed.op w = 6) ∧ WellFormed.opd w ≠ 0) ∨
    (WellFormed.op w = 4 ∧ 16 ≤ WellFormed.opd w) ∨ (WellFormed.op w = 5 ∧ 32 ≤ WellFormed.opd w)

/-- 30 R111: the word each line assembles to, with its ranges written out; an operand out of range is an assembly error;
and a malformed word comes from `.word` alone. That an ASCII character has a code below 128 is the model's choice
(notes/assumptions/11.md). -/
def Obligations.AssemblerEmitsOnlyLegalWords : Prop :=
  assemble .init = some (encode .init) ∧ assemble .final = some (encode .final) ∧ assemble .rdstat = some (encode .rdstat) ∧
  (∀ b : BitVec 8, assemble (.push b.toNat) = some (encode (.push b))) ∧ (∀ n, 255 < n → assemble (.push n) = none) ∧
  (∀ (ch : Char) (b : BitVec 8), ch.toNat = b.toNat → ch.toNat < 128 → assemble (.pushChar ch) = some (encode (.push b))) ∧
  (∀ ch : Char, 128 ≤ ch.toNat → assemble (.pushChar ch) = none) ∧
  (∀ k : BitVec 4, assemble (.rdbyte k.toNat) = some (encode (.rdbyte k))) ∧ (∀ n, 15 < n → assemble (.rdbyte n) = none) ∧
  (∀ k : BitVec 5, assemble (.rdhex k.toNat) = some (encode (.rdhex k))) ∧ (∀ n, 31 < n → assemble (.rdhex n) = none) ∧
  (∀ w : CmdWord, assemble (.word w.toNat) = some w) ∧ (∀ n, 65535 < n → assemble (.word n) = none) ∧
  (∀ (l : AsmLine) (w : CmdWord), (∀ n, l ≠ .word n) → assemble l = some w → ∃ i, decode w = .command i)

/-! ### Byte order and the datapath units -/

/-- 00 R11: concatenation puts its first operand in the high bits, `le32` puts its first byte lowest, and `byte(x, k)` is
bits 8k+7 to 8k. -/
def Obligations.LittleEndianWordsAndBytes : Prop :=
  (∀ x y : Byte, (x ++ y).toNat = 2 ^ 8 * x.toNat + y.toNat) ∧
  (∀ b0 b1 b2 b3 : Byte, le32 b0 b1 b2 b3 = b3 ++ b2 ++ b1 ++ b0) ∧
  (∀ b0 b1 b2 b3 : Byte,
    (le32 b0 b1 b2 b3).toNat = b0.toNat + 2 ^ 8 * b1.toNat + 2 ^ 16 * b2.toNat + 2 ^ 24 * b3.toNat ∧
    byteOf (le32 b0 b1 b2 b3) 0 = b0 ∧ byteOf (le32 b0 b1 b2 b3) 1 = b1 ∧
    byteOf (le32 b0 b1 b2 b3) 2 = b2 ∧ byteOf (le32 b0 b1 b2 b3) 3 = b3) ∧
  (∀ (x : LenWord) (k : Nat), (byteOf x k).toNat = x.toNat / 2 ^ (8 * k) % 256)

/-- 43 R196: the rotator moves bit j to bit j + n modulo 32, leaves the word alone for n = 0, and is asked only for the
listed amounts. -/
def Obligations.RotatorMovesEveryBit : Prop :=
  (∀ (x : Word) (n j : Nat), n < 32 → j < 32 → (rotl x n).getLsbD ((j + n) % 32) = x.getLsbD j) ∧
  (∀ x : Word, rotl x 0 = x) ∧
  (∀ i : BitVec 6, shiftAmount i ∈ [4, 5, 6, 7, 9, 10, 11, 12, 14, 15, 16, 17, 20, 21, 22, 23])

/-- 43 R198: what each logical function does to a bit, and its values on equal, all-zero and all-one operands. -/
def Obligations.LogicalFunctionsBitwise : Prop :=
  (∀ (b c d : Word) (j : Nat), j < 32 →
    (F0 b c d).getLsbD j = (if b.getLsbD j then c.getLsbD j else d.getLsbD j) ∧
    (F1 b c d).getLsbD j = (if d.getLsbD j then b.getLsbD j else c.getLsbD j) ∧
    (F2 b c d).getLsbD j = (b.getLsbD j ^^ c.getLsbD j ^^ d.getLsbD j) ∧
    (F3 b c d).getLsbD j = (c.getLsbD j ^^ (b.getLsbD j || !d.getLsbD j))) ∧
  (∀ b c d : Word, F0 b c c = c ∧ F2 b b d = d) ∧
  (F0 0 0 0 = 0 ∧ F1 0 0 0 = 0 ∧ F2 0 0 0 = 0 ∧ F3 0 0 0 = 0xffffffff#32) ∧
  (∀ x : Word, x = 0xffffffff#32 → F0 x x x = x ∧ F1 x x x = x ∧ F2 x x x = x ∧ F3 x x x = 0)

/-- 43 R199: the order of the message words in each round group; each word is read once a group and four times in all. -/
def Obligations.MessageWordOrderPerGroup : Prop :=
  (List.range 16).map (fun r => (gidx (BitVec.ofNat 6 r)).toNat) = [0, 1, 2, 3, 4, 5, 6, 7, 8, 9, 10, 11, 12, 13, 14, 15] ∧
  (List.range 16).map (fun r => (gidx (BitVec.ofNat 6 (16 + r))).toNat) =
    [1, 6, 11, 0, 5, 10, 15, 4, 9, 14, 3, 8, 13, 2, 7, 12] ∧
  (List.range 16).map (fun r => (gidx (BitVec.ofNat 6 (32 + r))).toNat) =
    [5, 8, 11, 14, 1, 4, 7, 10, 13, 0, 3, 6, 9, 12, 15, 2] ∧
  (List.range 16).map (fun r => (gidx (BitVec.ofNat 6 (48 + r))).toNat) =
    [0, 7, 14, 5, 12, 3, 10, 1, 8, 15, 6, 13, 4, 11, 2, 9] ∧
  (∀ (j : Fin 16) (k : Fin 4),
    ((List.range 16).filter fun r => (gidx (BitVec.ofNat 6 (16 * k.val + r))).toNat = j.val).length = 1) ∧
  (∀ j : Fin 16, ((List.range 64).filter fun r => (gidx (BitVec.ofNat 6 r)).toNat = j.val).length = 4)

/-- 43 R190: the T ROM holds `floor(|sin(i + 1)| * 2^32)`, the sine taken of radians. -/
def Obligations.RoundConstantsAreSines : Prop :=
  ∀ i : BitVec 6, ((roundConst i).toNat : ℤ) = ⌊|Real.sin ((i.toNat : ℝ) + 1)| * 2 ^ 32⌋

/-- 43 R191: `S[i] = P[i div 16][i mod 4]`. -/
def Obligations.ShiftAmountsFollowPattern : Prop :=
  ∀ i : BitVec 6, shiftAmount i =
    ([[7, 12, 17, 22], [5, 9, 14, 20], [4, 11, 16, 23], [6, 10, 15, 21]].getD (i.toNat / 16) []).getD (i.toNat % 4) 0

/-! ### Status -/

/-- 10 R45: every bit of STATUS, with the codes of ECODE as 10 R44 lists them, and the two consequences. -/
def Obligations.StatusBitsShowState : Prop :=
  ∀ s : State,
    (s.status.getLsbD 0 = true ↔ ¬ (s.PH = .pad ∨ s.PH = .parse ∨ s.PH = .round ∨ s.PH = .accum)) ∧
    (s.status.getLsbD 1 = true ↔ s.PH = .absorb) ∧
    (s.status.getLsbD 2 = true ↔ s.PH = .done) ∧
    (s.status.getLsbD 3 = s.ERR) ∧
    (s.status.extractLsb' 4 2 =
      match s.ECODE with
      | .noError => 0#2
      | .malformed => 1#2
      | .phase => 2#2
      | .code3 => 3#2) ∧
    (s.status.extractLsb' 6 2 = 0#2) ∧
    (s.PH = .idle → s.status.extractLsb' 0 3 = 0b001#3) ∧
    (s.busy = true → s.status.extractLsb' 0 3 = 0b000#3) ∧
    s.status.getLsbD 0 = s.cmdReady

/-! ### Commands: the whole next state where the command executes -/

/-- 40 R141: INIT opens a message in every phase that accepts a command, and again leaves the same state. -/
def Obligations.InitOpensMessage : Prop :=
  encode .init = 0x1000#16 ∧
  (∀ w : CmdWord, WellFormed.op w = 1 → w ≠ 0x1000#16 → ∃ why, decode w = .malformed why) ∧
  ∀ s : State, s.CodesAssigned → s.Ready → ∃ t, exec .init s = .next t ∧
    t = { s with
      A := 0x67452301#32, B := 0xefcdab89#32, C := 0x98badcfe#32, D := 0x10325476#32,
      CNT := 0, LEN := 0, FIN := false, LENW := false, ERR := false, ECODE := .noError, PH := .absorb } ∧
    t.status = 0x03#8 ∧ exec .init t = .next t

/-- 40 R144: PUSH b puts b at BUF[CNT], counts the byte and its eight bits, and starts the compression when the block is
full. -/
def Obligations.PushAppendsMessageByte : Prop :=
  ∀ (b : BitVec 8) (s : State) (h : s.CNT.toNat < 64), s.CodesAssigned → s.PH = .absorb →
    exec (.push b) s = .next { s with
      BUF := s.BUF.set s.CNT.toNat b h, CNT := s.CNT + 1, LEN := s.LEN + 8,
      PH := if s.CNT = 63 then .parse else .absorb }

/-- 41 R161: FINAL puts 0x80 at BUF[CNT] and starts the padding. -/
def Obligations.FinalStartsPadding : Prop :=
  ∀ (s : State) (h : s.CNT.toNat < 64), s.CodesAssigned → s.PH = .absorb →
    exec .final s = .next { s with BUF := s.BUF.set s.CNT.toNat 0x80#8 h, CNT := s.CNT + 1, FIN := true, PH := .pad }

/-- 44 R233, R231: RDBYTE k answers byte k of A, B, C, D, each word's low byte first, and changes nothing else. -/
def Obligations.RdbyteAnswersDigestByte : Prop :=
  ∀ (k : BitVec 4) (s : State), s.CodesAssigned → s.PH = .done →
    exec (.rdbyte k) s = .next { s with rsp := some ((Algorithm.digestBytes ⟨s.A, s.B, s.C, s.D⟩).getD k.toNat 0) }

/-- 44 R234, R232: RDHEX k answers character k of the hexadecimal rendering of the digest bytes, and changes nothing
else. -/
def Obligations.RdhexAnswersHexCharacter : Prop :=
  ∀ (k : BitVec 5) (s : State), s.CodesAssigned → s.PH = .done →
    exec (.rdhex k) s =
      .next { s with
        rsp := some ((Algorithm.renderHex (Algorithm.digestBytes ⟨s.A, s.B, s.C, s.D⟩)).getD k.toNat 0) }

/-- 44 R235: RDSTAT answers STATUS and changes nothing else; READY is 1 in the answer (10 R46). -/
def Obligations.RdstatAnswersStatus : Prop :=
  ∀ s : State, s.CodesAssigned → s.Ready →
    exec .rdstat s = .next { s with rsp := some s.status } ∧ s.status.getLsbD 0 = true

/-! ### Acceptance, errors and the busy hold -/

/-- A step of an engine that is not busy runs the command its word decodes to: `step` is `exec` on the state whose stream
has moved past the word and whose last response the host has taken. -/
def Obligations.StepRunsDecodedCommand : Prop :=
  ∀ (s : State) (w : CmdWord) (rest : List HostInput) (i : Instr), s.accepts w rest → decode w = .command i →
    step s = exec i { s with inputs := rest, rsp := none, responses := s.responses ++ s.rsp.toList }

/-- 60 R261: the legality table. A permitted command executes, without a command error; another is a command error of cause
PHASE; while busy the command stays at the port and no error is recorded. -/
def Obligations.LegalityTableDecidesExecution : Prop :=
  ∀ (i : Instr) (s : State) (rest : List HostInput), s.CodesAssigned → (s.PH = .absorb → s.CNT.toNat < 64) →
    s.inputs = .command (encode i) :: rest →
    (s.Ready → Permitted i s.PH → ∃ t, step s = .next t ∧ t.inputs = rest ∧ t.faultLog = s.faultLog) ∧
    (s.Ready → ¬ Permitted i s.PH → ∃ t, step s = .next t ∧ t.inputs = rest ∧ t.faultLog = s.faultLog ++ [.phase]) ∧
    (s.busy = true → ∃ t, step s = .next t ∧ t.inputs = s.inputs ∧ t.faultLog = s.faultLog)

/-- 60 R262, with the causes of R263 and the priority of R264: what an accepted word that is malformed, or is not permitted
in the phase, does, whole. -/
def Obligations.CommandErrorDoesExactlyThis : Prop :=
  ∀ (s : State) (w : CmdWord) (rest : List HostInput) (e : CmdError), s.accepts w rest →
    ((e = .malformed ∧ ∃ why, decode w = .malformed why) ∨
     (e = .phase ∧ ∃ i, decode w = .command i ∧ ¬ Permitted i s.PH)) →
    ∃ t, step s = .next t ∧
      (AsksResponse w → t.rsp = some 0x00#8) ∧ (¬ AsksResponse w → t.rsp = none) ∧
      t = { s with
        inputs := rest, rsp := t.rsp, responses := s.responses ++ s.rsp.toList,
        ERR := true,
        ECODE := if s.ECODE = .noError then (match e with | .malformed => .malformed | .phase => .phase) else s.ECODE,
        faultLog := s.faultLog ++ [e] }

/-- 10 R43: which phases are busy; a busy engine moves, and keeps a presented word at the port; an engine that is not busy is
ready, and where nothing is presented only the response channel empties. A step the host lets pass is over in either
case. -/
def Obligations.ExactlyOneAgentMoves : Prop :=
  ∀ s : State,
    (s.busy = true ↔ s.PH = .pad ∨ s.PH = .parse ∨ s.PH = .round ∨ s.PH = .accum) ∧
    (s.cmdReady = true ↔ s.busy = false) ∧
    (s.CodesAssigned → s.busy = true → NoReset s.inputs →
      ∃ t, step s = .next t ∧
        (HostWaits s.inputs → t.inputs = s.inputs) ∧ (∀ rest, s.inputs = .idle :: rest → t.inputs = rest) ∧
        t.faultLog = s.faultLog ∧ t.ERR = s.ERR ∧ t.ECODE = s.ECODE ∧
        t.rsp = none ∧ (t.PH ≠ s.PH ∨ t.RND ≠ s.RND)) ∧
    (s.CodesAssigned → s.busy = false → s.inputs = [] →
      step s = .next { s with rsp := none, responses := s.responses ++ s.rsp.toList }) ∧
    (∀ rest, s.CodesAssigned → s.busy = false → s.inputs = .idle :: rest →
      step s = .next { s with inputs := rest, rsp := none, responses := s.responses ++ s.rsp.toList })

/-- 30 R103: an accepted word yields one response byte exactly when its OP is 4, 5 or 6; it is 0x00 when the word is a
command error. -/
def Obligations.OneResponsePerReadCommand : Prop :=
  ∀ (s t : State) (w : CmdWord) (rest : List HostInput), s.accepts w rest → step s = .next t →
    (AsksResponse w → t.observed.length = s.observed.length + 1) ∧
    (¬ AsksResponse w → t.observed = s.observed) ∧
    (AsksResponse w → t.faultLog ≠ s.faultLog → t.observed = s.observed ++ [0x00#8])

/-- 20 R81: a read that executes changes the response channel alone and answers the same byte again; a read that is a
command error changes, beside the channel, ERR and ECODE and the model's fault log. -/
def Obligations.ReadsChangeNoRegister : Prop :=
  ∀ (i : Instr) (s t : State), (∃ k, i = .rdbyte k) ∨ (∃ k, i = .rdhex k) ∨ i = .rdstat → exec i s = .next t →
    (t.faultLog = s.faultLog → t = { s with rsp := t.rsp } ∧ exec i t = .next t) ∧
    (t.faultLog ≠ s.faultLog → t = { s with rsp := t.rsp, ERR := t.ERR, ECODE := t.ECODE, faultLog := t.faultLog })

/-- 60 R267: ERR and ECODE are cleared only by an INIT that executes or by reset, and an error while ERR = 1 leaves ECODE
as it is. -/
def Obligations.OnlyInitAndResetClearErrors : Prop :=
  ∀ s t : State, s.Inv → step s = .next t → s.ERR = true →
    (t.ERR = true ∧ t.ECODE = s.ECODE) ∨
    (t.ERR = false ∧ t.ECODE = .noError ∧
      ((∃ rest, s.inputs = .reset :: rest) ∨ (∃ rest, s.accepts 0x1000#16 rest)))

/-- 60 R268: each command error is appended to the fault log, one a step at the most, and no step clears it. The rule names
INIT; that a reset does not clear the log either is the model's deduction (notes/assumptions/5.md). -/
def Obligations.FaultLogKeepsEveryError : Prop :=
  (∀ (s t : State) (w : CmdWord) (rest : List HostInput), s.accepts w rest → step s = .next t →
    ((∃ why, decode w = .malformed why) → t.faultLog = s.faultLog ++ [.malformed]) ∧
    (∀ i, decode w = .command i → ¬ Permitted i s.PH → t.faultLog = s.faultLog ++ [.phase])) ∧
  (∀ s t : State, step s = .next t → ∃ l, t.faultLog = s.faultLog ++ l ∧ l.length ≤ 1) ∧
  (∀ (n : Nat) (s t : State), runFor n s = .next t → s.faultLog <+: t.faultLog)

/-! ### Micro-steps: the whole next state, whatever the host does but for a reset -/

/-- 41 R162: PAD. -/
def Obligations.PadCompletesBlock : Prop :=
  ∀ s : State, s.CodesAssigned → s.PH = .pad → NoReset s.inputs → ∃ t, step s = .next t ∧
    t = { s with
      BUF := t.BUF, LENW := if s.CNT.toNat ≤ 56 then true else s.LENW, CNT := 64, PH := .parse,
      inputs := heldStream s.inputs, rsp := none, responses := s.responses ++ s.rsp.toList } ∧
    (∀ j : Fin 64, j.val < s.CNT.toNat → t.BUF[j] = s.BUF[j]) ∧
    (s.CNT.toNat ≤ 56 →
      (∀ j : Fin 64, s.CNT.toNat ≤ j.val → j.val < 56 → t.BUF[j] = 0x00#8) ∧
      (∀ k : Fin 8, (t.BUF[56 + k.val]'(by omega)).toNat = s.LEN.toNat / 2 ^ (8 * k.val) % 256)) ∧
    (56 < s.CNT.toNat → ∀ j : Fin 64, s.CNT.toNat ≤ j.val → t.BUF[j] = 0x00#8)

/-- 42 R180, R181: PARSE. -/
def Obligations.ParseSplitsBlock : Prop :=
  ∀ s : State, s.CodesAssigned → s.PH = .parse → NoReset s.inputs → ∃ t, step s = .next t ∧
    t = { s with
      a := s.A, b := s.B, c := s.C, d := s.D, W := t.W, RND := 0, PH := .round,
      inputs := heldStream s.inputs, rsp := none, responses := s.responses ++ s.rsp.toList } ∧
    (∀ j : Fin 16, (t.W[j]).toNat =
      (s.BUF[4 * j.val]'(by omega)).toNat + 2 ^ 8 * (s.BUF[4 * j.val + 1]'(by omega)).toNat +
      2 ^ 16 * (s.BUF[4 * j.val + 2]'(by omega)).toNat + 2 ^ 24 * (s.BUF[4 * j.val + 3]'(by omega)).toNat) ∧
    (∀ (j : Fin 16) (k : Fin 4), t.BUF[4 * j.val + k.val]'(by omega) = byteOf t.W[j] k.val)

/-- 43 R197: ROUND, in the source's own terms: function, index and shift by range of i, the four-input sum, the rotation,
and the simultaneous write. -/
def Obligations.RoundUpdatesWorkingRegisters : Prop :=
  ∀ s : State, s.CodesAssigned → s.PH = .round → NoReset s.inputs →
    let i := s.RND.toNat
    let f := if i < 16 then (s.b &&& s.c) ||| (~~~s.b &&& s.d)
      else if i < 32 then (s.d &&& s.b) ||| (~~~s.d &&& s.c)
      else if i < 48 then s.b ^^^ s.c ^^^ s.d
      else s.c ^^^ (s.b ||| ~~~s.d)
    let g := if i < 16 then i else if i < 32 then (5 * i + 1) % 16 else if i < 48 then (3 * i + 5) % 16 else 7 * i % 16
    let sum := f + s.a + roundConst s.RND + s.W.toList.getD g 0
    let newB := s.b + sum.rotateLeft (shiftAmount s.RND)
    step s = .next { s with
      a := s.d, b := newB, c := s.b, d := s.c,
      RND := if i = 63 then s.RND else s.RND + 1, PH := if i = 63 then .accum else .round,
      inputs := heldStream s.inputs, rsp := none, responses := s.responses ++ s.rsp.toList }

/-- 44 R230: ACCUM. -/
def Obligations.AccumFoldsCompression : Prop :=
  ∀ s : State, s.CodesAssigned → s.PH = .accum → NoReset s.inputs →
    step s = .next { s with
      A := s.A + s.a, B := s.B + s.b, C := s.C + s.c, D := s.D + s.d, CNT := 0,
      PH := if s.FIN = false then .absorb else if s.LENW = true then .done else .pad,
      inputs := heldStream s.inputs, rsp := none, responses := s.responses ++ s.rsp.toList }

/-- 10 R41: the next phase, and the next round, depend on PH, RND, FIN and LENW alone. -/
def Obligations.NextPhaseDependsOnSequencerAlone : Prop :=
  ∀ s s' t t' : State, s.busy = true → NoReset s.inputs → NoReset s'.inputs →
    s'.PH = s.PH → s'.RND = s.RND → s'.FIN = s.FIN → s'.LENW = s.LENW → step s = .next t → step s' = .next t' →
    t'.PH = t.PH ∧ (t.PH = .round → t'.RND = t.RND)

/-! ### Who writes what -/

/-- 10 R31 to R34, 20 R71: reset apart, the chaining registers are written by INIT and ACCUM only, the working registers by
PARSE and ROUND, the message words by PARSE, and BUF by PUSH and FINAL at CNT and by PAD from CNT up. -/
def Obligations.DatapathRegistersHaveTheirWriters : Prop :=
  ∀ s t : State, step s = .next t → s.inputs.head? ≠ some .reset →
    (t.chain ≠ s.chain → s.PH = .accum ∨ ∃ rest, s.accepts (encode .init) rest) ∧
    (t.work ≠ s.work → s.PH = .parse ∨ s.PH = .round) ∧
    (t.W ≠ s.W → s.PH = .parse) ∧
    (∀ j : Fin 64, t.BUF[j] ≠ s.BUF[j] →
      (s.PH = .pad ∧ s.CNT.toNat ≤ j.val) ∨
      (j.val = s.CNT.toNat ∧ s.PH = .absorb ∧
        ((∃ b rest, s.accepts (encode (.push b)) rest) ∨ ∃ rest, s.accepts (encode .final) rest)))

/-- 10 R35 to R39: reset apart, CNT is written by INIT, PUSH, FINAL, PAD and ACCUM, LEN by INIT and PUSH, RND by PARSE and
ROUND; FIN is set by FINAL and LENW by PAD, and both are cleared by INIT. -/
def Obligations.CountersAndFlagsHaveTheirWriters : Prop :=
  ∀ s t : State, step s = .next t → s.inputs.head? ≠ some .reset →
    (t.CNT ≠ s.CNT → s.PH = .pad ∨ s.PH = .accum ∨
      ∃ rest, s.accepts (encode .init) rest ∨ s.accepts (encode .final) rest ∨ ∃ b, s.accepts (encode (.push b)) rest) ∧
    (t.LEN ≠ s.LEN → ∃ rest, s.accepts (encode .init) rest ∨ ∃ b, s.accepts (encode (.push b)) rest) ∧
    (t.RND ≠ s.RND → s.PH = .parse ∨ s.PH = .round) ∧
    (s.FIN = false → t.FIN = true → s.PH = .absorb ∧ ∃ rest, s.accepts (encode .final) rest) ∧
    (s.LENW = false → t.LENW = true → s.PH = .pad) ∧
    (s.FIN = true → t.FIN = false → ∃ rest, s.accepts (encode .init) rest) ∧
    (s.LENW = true → t.LENW = false → ∃ rest, s.accepts (encode .init) rest)

/-! ### Reset -/

/-- 10 R50: the values the spec gives for reset, STATUS included. The registers it leaves unspecified are not named here. -/
def Obligations.ResetGivesSpecifiedValues : Prop :=
  State.reset.PH = .idle ∧ State.reset.FIN = false ∧ State.reset.LENW = false ∧ State.reset.ERR = false ∧
  State.reset.ECODE = .noError ∧ State.reset.status = 0x01#8

/-- 70 R290, R291: reset is taken in every state, busy or not; it gives the values of 10 R50, accepts no command and drops
the pending response. That the fault log is kept over a reset is the model's deduction (notes/assumptions/5.md). -/
def Obligations.ResetIsTakenInEveryState : Prop :=
  ∀ (s : State) (rest : List HostInput), s.inputs = .reset :: rest → ∃ t, step s = .next t ∧
    t.PH = .idle ∧ t.FIN = false ∧ t.LENW = false ∧ t.ERR = false ∧ t.ECODE = .noError ∧ t.status = 0x01#8 ∧
    t.rsp = none ∧ t.responses = s.responses ∧ t.inputs = rest ∧ t.faultLog = s.faultLog

/-! ### Invariants -/

/-- 10 R49 holds at reset. -/
def Obligations.ResetMeetsReachableStateRules : Prop := State.reset.Inv

/-- 10 R49: every step, from every state that meets the invariants, keeps them; and PAD is entered with CNT = 0 only from
ACCUM. -/
def Obligations.EveryStepKeepsReachableStateRules : Prop :=
  ∀ s t : State, s.Inv → step s = .next t → t.Inv ∧ (t.PH = .pad → t.CNT = 0 → s.PH = .accum)

/-- 60 R265, 70 R300: from every state that meets the invariants the machine goes on; no step faults or is refused. -/
def Obligations.NoStepStopsFromReachableStates : Prop :=
  ∀ s : State, s.Inv → ∃ t, step s = .next t

/-- 70 R293: two states that agree on everything a rule may read step to two such states. -/
def Obligations.UnspecifiedValuesAreNeverRead : Prop :=
  ∀ s t : State, s.Inv → Agree s t → ∃ s' t', step s = .next s' ∧ step t = .next t' ∧ Agree s' t'

/-- 70 R293 over runs: after reset, whatever the registers that reset leaves unspecified hold, the same host stream gives
the same responses, the same errors and the same STATUS at every step. The values this model names for them
(notes/assumptions/1.md) do not matter. -/
def Obligations.UnspecifiedResetValuesDoNotShow : Prop :=
  ∀ (n : Nat) (l : List HostInput) (q w : Quad) (W : Vector Word 16) (buf : Vector Byte 64) (cnt : BitVec 7) (len : LenWord)
    (rnd : BitVec 6), ∃ s t : State,
    runFor n { State.reset with inputs := l } = .next s ∧
    runFor n { State.reset with
      inputs := l, A := q.a, B := q.b, C := q.c, D := q.d, a := w.a, b := w.b, c := w.c, d := w.d,
      W := W, BUF := buf, CNT := cnt, LEN := len, RND := rnd } = .next t ∧
    s.observed = t.observed ∧ s.faultLog = t.faultLog ∧ s.status = t.status ∧ s.inputs = t.inputs

/-! ### Compression, padding and the contract -/

/-- 70 R300, 44 R230: the 66 micro-steps from PARSE to the end of ACCUM compute the source's compression of BUF, and leave
everything but the working registers, W and RND as it was. -/
def Obligations.CompressionIsSourceCompression : Prop :=
  ∀ s : State, s.CodesAssigned → s.PH = .parse → HostWaits s.inputs → ∃ t, runFor 66 s = .next t ∧
    t.chain = Algorithm.compress s.chain s.BUF ∧
    t = { s with
      A := t.A, B := t.B, C := t.C, D := t.D, a := t.a, b := t.b, c := t.c, d := t.d, W := t.W, RND := t.RND,
      CNT := 0, PH := if s.FIN = false then .absorb else if s.LENW = true then .done else .pad,
      rsp := none, responses := s.responses ++ s.rsp.toList }

/-- 70 R300: the busy periods: 66 micro-steps after a PUSH that fills the block, and after FINAL 67 when the bytes before it
in the block are at most 55, else 134. -/
def Obligations.BusyPeriodsAreBounded : Prop :=
  ∀ s : State, s.Inv → s.PH = .absorb → HostWaits s.inputs →
    (∀ (b : BitVec 8) (t : State), s.CNT.toNat = 63 → exec (.push b) s = .next t →
      (∀ n, n < 66 → ∃ u, runFor n t = .next u ∧ u.busy = true) ∧
      ∃ u, runFor 66 t = .next u ∧ u.busy = false ∧ u.PH = .absorb ∧ u.CNT = 0) ∧
    (∀ t : State, exec .final s = .next t →
      let m := if s.CNT.toNat ≤ 55 then 67 else 134
      (∀ n, n < m → ∃ u, runFor n t = .next u ∧ u.busy = true) ∧ ∃ u, runFor m t = .next u ∧ u.PH = .done)

/-- 41 R160, R163: the padded message is the message, 0x80, z zeros and the length, z the least that brings the length to 56
modulo 64; it is a whole number of blocks, floor(L/64) + 1 of them when L mod 64 is at most 55, else one more, that is
`(L + 1 + z + 8) / 64`, and ceil((L + 9) / 64). -/
def Obligations.PaddedMessageIsWholeBlocks : Prop :=
  ∀ msg : List Byte,
    let L := msg.length
    let z := Algorithm.zeros L
    (∃ field : List Byte, field.length = 8 ∧
      Algorithm.pad msg = msg ++ [0x80#8] ++ List.replicate z 0x00#8 ++ field ∧
      (∀ k : Fin 8, ((field.getD k.val 0).toNat) = 8 * L % 2 ^ 64 / 2 ^ (8 * k.val) % 256)) ∧
    z < 64 ∧ (L + 1 + z) % 64 = 56 ∧ (∀ y, y < z → (L + 1 + y) % 64 ≠ 56) ∧
    (Algorithm.pad msg).length = 64 * (Algorithm.blocks (Algorithm.pad msg)).length ∧
    (Algorithm.blocks (Algorithm.pad msg)).length = L / 64 + (if L % 64 ≤ 55 then 1 else 2) ∧
    (Algorithm.blocks (Algorithm.pad msg)).length = (L + 1 + z + 8) / 64 ∧
    (Algorithm.blocks (Algorithm.pad msg)).length = (L + 9 + 63) / 64

/-- 40 R145: after INIT and any stream of PUSH and read commands that pushes L bytes: LEN, CNT and PH, and the compressions
that have run: their blocks in order, and the chaining value they leave. -/
def Obligations.PushedBytesAreCountedAndCompressed : Prop :=
  ∀ (l : List Instr) (s : State) (rest : List HostInput), s.CodesAssigned → s.Ready →
    (∀ i ∈ l, i ≠ .init ∧ i ≠ .final) → s.inputs = commandStream (.init :: l) ++ rest → HostWaits rest →
    let msg := pushedBytes l
    ∃ n t, runFor n s = .next t ∧ t.inputs = rest ∧ t.PH = .absorb ∧
      t.LEN = BitVec.ofNat 64 (8 * msg.length) ∧ t.CNT.toNat = msg.length % 64 ∧
      parsedBlocks n s = Algorithm.blocks msg ∧ t.chain = (Algorithm.blocks msg).foldl Algorithm.compress iv ∧
      (∀ j : Fin 64, j.val < msg.length % 64 → t.BUF[j] = msg.getD (64 * (msg.length / 64) + j.val) 0)

/-- 41 R165: the blocks PARSE reads from INIT to DONE are the padded message cut into blocks, in order. -/
def Obligations.ParsedBlocksArePaddedMessage : Prop :=
  ∀ (msg : List Byte) (s : State) (rest : List HostInput), s.CodesAssigned → s.Ready →
    s.inputs = commandStream ([.init] ++ msg.map .push ++ [.final]) ++ rest → HostWaits rest →
    ∃ n t, runFor n s = .next t ∧ t.inputs = rest ∧ t.PH = .done ∧
      parsedBlocks n s = Algorithm.blocks (Algorithm.pad msg)

/-- 44 R236, R237: from any state that is not busy, INIT, the PUSH of each byte, FINAL and the 32 RDHEX commands are free of
command errors and answer the characters of the digest of the bytes, whatever the state held before. That the characters are
ASCII codes is the spec's decision D8 (notes/assumptions/10.md). -/
def Obligations.HashCommandsAnswerDigest : Prop :=
  ∀ (msg : List Byte) (s : State) (rest : List HostInput), s.CodesAssigned → s.Ready →
    s.inputs = commandStream (Pseudo.hash msg).expand ++ rest →
    ∃ n t, runFor n s = .next t ∧ t.inputs = rest ∧ t.PH = .done ∧ t.faultLog = s.faultLog ∧ t.ERR = false ∧
      t.observed = s.observed ++ Algorithm.digest msg

/-- 44 R238: the digest is 32 characters, each one of '0' to '9' and 'a' to 'f'; and so is every answer of RDHEX that is no
command error, whatever A to D hold. -/
def Obligations.DigestIsLowercaseHex : Prop :=
  (∀ msg : List Byte, (Algorithm.digest msg).length = 32 ∧
    ∀ x ∈ Algorithm.digest msg, (0x30 ≤ x.toNat ∧ x.toNat ≤ 0x39) ∨ (0x61 ≤ x.toNat ∧ x.toNat ≤ 0x66)) ∧
  (∀ (q : Quad) (k : Fin 32),
    (0x30 ≤ (hexChar q k.val).toNat ∧ (hexChar q k.val).toNat ≤ 0x39) ∨
    (0x61 ≤ (hexChar q k.val).toNat ∧ (hexChar q k.val).toNat ≤ 0x66))

/-- 70 R302: once a run has ended no later step changes a register, the fault log or what the run shows. That a run has ended
only when the host's whole stream is empty, steps that are no command included, is the model's choice
(notes/assumptions/14.md), and so is that the engine then steps to itself (notes/assumptions/3.md). -/
def Obligations.EndedRunStaysAsItIs : Prop :=
  ∀ (n : Nat) (s : State), s.CodesAssigned → s.runEnded → ∃ t, runFor n s = .next t ∧ t.runEnded ∧
    t.observed = s.observed ∧ t = { s with rsp := t.rsp, responses := t.responses }

/-! ### Where the model stops -/

/-- The model's choice (notes/assumptions/6.md): in ABSORB with CNT not below 64, a state no run reaches, PUSH and FINAL
fault, since BUF has no such byte. -/
def Obligations.BufferIndexOutOfRangeFaults : Prop :=
  ∀ (s : State) (b : BitVec 8), s.CodesAssigned → s.PH = .absorb → 64 ≤ s.CNT.toNat →
    exec (.push b) s = .fault (.bufIndexOutOfRange s.CNT) ∧ exec .final s = .fault (.bufIndexOutOfRange s.CNT)

/-- 93 I7, I8: a state in PH code 7 or with ECODE 3 is refused, by every command and by every step that is no reset. -/
def Obligations.ReservedCodesAreRefused : Prop :=
  ∀ s : State, ¬ s.CodesAssigned →
    (∀ i, ∃ r, exec i s = .refused r) ∧ (s.inputs.head? ≠ some .reset → ∃ r, step s = .refused r)
end

