-- ==== Sys2Proof/Laws/State.lean ====
section
/-! SUPPORT. What each named update does to each field of the state, so that no proof unfolds a record update. -/

namespace Sys2Proof.Machine

/-! ### setChain -/

@[simp] theorem State.setChain_A (s : State) (q : Quad) : (s.setChain q).A = q.a := rfl
@[simp] theorem State.setChain_B (s : State) (q : Quad) : (s.setChain q).B = q.b := rfl
@[simp] theorem State.setChain_C (s : State) (q : Quad) : (s.setChain q).C = q.c := rfl
@[simp] theorem State.setChain_D (s : State) (q : Quad) : (s.setChain q).D = q.d := rfl
@[simp] theorem State.setChain_a (s : State) (q : Quad) : (s.setChain q).a = s.a := rfl
@[simp] theorem State.setChain_b (s : State) (q : Quad) : (s.setChain q).b = s.b := rfl
@[simp] theorem State.setChain_c (s : State) (q : Quad) : (s.setChain q).c = s.c := rfl
@[simp] theorem State.setChain_d (s : State) (q : Quad) : (s.setChain q).d = s.d := rfl
@[simp] theorem State.setChain_W (s : State) (q : Quad) : (s.setChain q).W = s.W := rfl
@[simp] theorem State.setChain_BUF (s : State) (q : Quad) : (s.setChain q).BUF = s.BUF := rfl
@[simp] theorem State.setChain_CNT (s : State) (q : Quad) : (s.setChain q).CNT = s.CNT := rfl
@[simp] theorem State.setChain_LEN (s : State) (q : Quad) : (s.setChain q).LEN = s.LEN := rfl
@[simp] theorem State.setChain_RND (s : State) (q : Quad) : (s.setChain q).RND = s.RND := rfl
@[simp] theorem State.setChain_FIN (s : State) (q : Quad) : (s.setChain q).FIN = s.FIN := rfl
@[simp] theorem State.setChain_LENW (s : State) (q : Quad) : (s.setChain q).LENW = s.LENW := rfl
@[simp] theorem State.setChain_PH (s : State) (q : Quad) : (s.setChain q).PH = s.PH := rfl
@[simp] theorem State.setChain_ERR (s : State) (q : Quad) : (s.setChain q).ERR = s.ERR := rfl
@[simp] theorem State.setChain_ECODE (s : State) (q : Quad) : (s.setChain q).ECODE = s.ECODE := rfl
@[simp] theorem State.setChain_inputs (s : State) (q : Quad) : (s.setChain q).inputs = s.inputs := rfl
@[simp] theorem State.setChain_rsp (s : State) (q : Quad) : (s.setChain q).rsp = s.rsp := rfl
@[simp] theorem State.setChain_responses (s : State) (q : Quad) : (s.setChain q).responses = s.responses := rfl
@[simp] theorem State.setChain_faultLog (s : State) (q : Quad) : (s.setChain q).faultLog = s.faultLog := rfl

/-! ### setWork -/

@[simp] theorem State.setWork_A (s : State) (q : Quad) : (s.setWork q).A = s.A := rfl
@[simp] theorem State.setWork_B (s : State) (q : Quad) : (s.setWork q).B = s.B := rfl
@[simp] theorem State.setWork_C (s : State) (q : Quad) : (s.setWork q).C = s.C := rfl
@[simp] theorem State.setWork_D (s : State) (q : Quad) : (s.setWork q).D = s.D := rfl
@[simp] theorem State.setWork_a (s : State) (q : Quad) : (s.setWork q).a = q.a := rfl
@[simp] theorem State.setWork_b (s : State) (q : Quad) : (s.setWork q).b = q.b := rfl
@[simp] theorem State.setWork_c (s : State) (q : Quad) : (s.setWork q).c = q.c := rfl
@[simp] theorem State.setWork_d (s : State) (q : Quad) : (s.setWork q).d = q.d := rfl
@[simp] theorem State.setWork_W (s : State) (q : Quad) : (s.setWork q).W = s.W := rfl
@[simp] theorem State.setWork_BUF (s : State) (q : Quad) : (s.setWork q).BUF = s.BUF := rfl
@[simp] theorem State.setWork_CNT (s : State) (q : Quad) : (s.setWork q).CNT = s.CNT := rfl
@[simp] theorem State.setWork_LEN (s : State) (q : Quad) : (s.setWork q).LEN = s.LEN := rfl
@[simp] theorem State.setWork_RND (s : State) (q : Quad) : (s.setWork q).RND = s.RND := rfl
@[simp] theorem State.setWork_FIN (s : State) (q : Quad) : (s.setWork q).FIN = s.FIN := rfl
@[simp] theorem State.setWork_LENW (s : State) (q : Quad) : (s.setWork q).LENW = s.LENW := rfl
@[simp] theorem State.setWork_PH (s : State) (q : Quad) : (s.setWork q).PH = s.PH := rfl
@[simp] theorem State.setWork_ERR (s : State) (q : Quad) : (s.setWork q).ERR = s.ERR := rfl
@[simp] theorem State.setWork_ECODE (s : State) (q : Quad) : (s.setWork q).ECODE = s.ECODE := rfl
@[simp] theorem State.setWork_inputs (s : State) (q : Quad) : (s.setWork q).inputs = s.inputs := rfl
@[simp] theorem State.setWork_rsp (s : State) (q : Quad) : (s.setWork q).rsp = s.rsp := rfl
@[simp] theorem State.setWork_responses (s : State) (q : Quad) : (s.setWork q).responses = s.responses := rfl
@[simp] theorem State.setWork_faultLog (s : State) (q : Quad) : (s.setWork q).faultLog = s.faultLog := rfl

/-! ### respond -/

@[simp] theorem State.respond_A (s : State) (v : Byte) : (s.respond v).A = s.A := rfl
@[simp] theorem State.respond_B (s : State) (v : Byte) : (s.respond v).B = s.B := rfl
@[simp] theorem State.respond_C (s : State) (v : Byte) : (s.respond v).C = s.C := rfl
@[simp] theorem State.respond_D (s : State) (v : Byte) : (s.respond v).D = s.D := rfl
@[simp] theorem State.respond_a (s : State) (v : Byte) : (s.respond v).a = s.a := rfl
@[simp] theorem State.respond_b (s : State) (v : Byte) : (s.respond v).b = s.b := rfl
@[simp] theorem State.respond_c (s : State) (v : Byte) : (s.respond v).c = s.c := rfl
@[simp] theorem State.respond_d (s : State) (v : Byte) : (s.respond v).d = s.d := rfl
@[simp] theorem State.respond_W (s : State) (v : Byte) : (s.respond v).W = s.W := rfl
@[simp] theorem State.respond_BUF (s : State) (v : Byte) : (s.respond v).BUF = s.BUF := rfl
@[simp] theorem State.respond_CNT (s : State) (v : Byte) : (s.respond v).CNT = s.CNT := rfl
@[simp] theorem State.respond_LEN (s : State) (v : Byte) : (s.respond v).LEN = s.LEN := rfl
@[simp] theorem State.respond_RND (s : State) (v : Byte) : (s.respond v).RND = s.RND := rfl
@[simp] theorem State.respond_FIN (s : State) (v : Byte) : (s.respond v).FIN = s.FIN := rfl
@[simp] theorem State.respond_LENW (s : State) (v : Byte) : (s.respond v).LENW = s.LENW := rfl
@[simp] theorem State.respond_PH (s : State) (v : Byte) : (s.respond v).PH = s.PH := rfl
@[simp] theorem State.respond_ERR (s : State) (v : Byte) : (s.respond v).ERR = s.ERR := rfl
@[simp] theorem State.respond_ECODE (s : State) (v : Byte) : (s.respond v).ECODE = s.ECODE := rfl
@[simp] theorem State.respond_inputs (s : State) (v : Byte) : (s.respond v).inputs = s.inputs := rfl
@[simp] theorem State.respond_rsp (s : State) (v : Byte) : (s.respond v).rsp = some v := rfl
@[simp] theorem State.respond_responses (s : State) (v : Byte) : (s.respond v).responses = s.responses := rfl
@[simp] theorem State.respond_faultLog (s : State) (v : Byte) : (s.respond v).faultLog = s.faultLog := rfl

/-! ### raiseCmdError -/

@[simp] theorem raiseCmdError_A (w : CmdWord) (e : CmdError) (s : State) : (raiseCmdError w e s).A = s.A := rfl
@[simp] theorem raiseCmdError_B (w : CmdWord) (e : CmdError) (s : State) : (raiseCmdError w e s).B = s.B := rfl
@[simp] theorem raiseCmdError_C (w : CmdWord) (e : CmdError) (s : State) : (raiseCmdError w e s).C = s.C := rfl
@[simp] theorem raiseCmdError_D (w : CmdWord) (e : CmdError) (s : State) : (raiseCmdError w e s).D = s.D := rfl
@[simp] theorem raiseCmdError_a (w : CmdWord) (e : CmdError) (s : State) : (raiseCmdError w e s).a = s.a := rfl
@[simp] theorem raiseCmdError_b (w : CmdWord) (e : CmdError) (s : State) : (raiseCmdError w e s).b = s.b := rfl
@[simp] theorem raiseCmdError_c (w : CmdWord) (e : CmdError) (s : State) : (raiseCmdError w e s).c = s.c := rfl
@[simp] theorem raiseCmdError_d (w : CmdWord) (e : CmdError) (s : State) : (raiseCmdError w e s).d = s.d := rfl
@[simp] theorem raiseCmdError_W (w : CmdWord) (e : CmdError) (s : State) : (raiseCmdError w e s).W = s.W := rfl
@[simp] theorem raiseCmdError_BUF (w : CmdWord) (e : CmdError) (s : State) : (raiseCmdError w e s).BUF = s.BUF := rfl
@[simp] theorem raiseCmdError_CNT (w : CmdWord) (e : CmdError) (s : State) : (raiseCmdError w e s).CNT = s.CNT := rfl
@[simp] theorem raiseCmdError_LEN (w : CmdWord) (e : CmdError) (s : State) : (raiseCmdError w e s).LEN = s.LEN := rfl
@[simp] theorem raiseCmdError_RND (w : CmdWord) (e : CmdError) (s : State) : (raiseCmdError w e s).RND = s.RND := rfl
@[simp] theorem raiseCmdError_FIN (w : CmdWord) (e : CmdError) (s : State) : (raiseCmdError w e s).FIN = s.FIN := rfl
@[simp] theorem raiseCmdError_LENW (w : CmdWord) (e : CmdError) (s : State) : (raiseCmdError w e s).LENW = s.LENW := rfl
@[simp] theorem raiseCmdError_PH (w : CmdWord) (e : CmdError) (s : State) : (raiseCmdError w e s).PH = s.PH := rfl
@[simp] theorem raiseCmdError_ERR (w : CmdWord) (e : CmdError) (s : State) : (raiseCmdError w e s).ERR = true := rfl
@[simp] theorem raiseCmdError_ECODE (w : CmdWord) (e : CmdError) (s : State) : (raiseCmdError w e s).ECODE = firstCause s.ECODE e := rfl
@[simp] theorem raiseCmdError_inputs (w : CmdWord) (e : CmdError) (s : State) : (raiseCmdError w e s).inputs = s.inputs := rfl
@[simp] theorem raiseCmdError_rsp (w : CmdWord) (e : CmdError) (s : State) : (raiseCmdError w e s).rsp = if responds w then some 0x00 else s.rsp := rfl
@[simp] theorem raiseCmdError_responses (w : CmdWord) (e : CmdError) (s : State) : (raiseCmdError w e s).responses = s.responses := rfl
@[simp] theorem raiseCmdError_faultLog (w : CmdWord) (e : CmdError) (s : State) : (raiseCmdError w e s).faultLog = s.faultLog ++ [e] := rfl

/-! ### deliver -/

@[simp] theorem State.deliver_A (s : State) : (s.deliver).A = s.A := rfl
@[simp] theorem State.deliver_B (s : State) : (s.deliver).B = s.B := rfl
@[simp] theorem State.deliver_C (s : State) : (s.deliver).C = s.C := rfl
@[simp] theorem State.deliver_D (s : State) : (s.deliver).D = s.D := rfl
@[simp] theorem State.deliver_a (s : State) : (s.deliver).a = s.a := rfl
@[simp] theorem State.deliver_b (s : State) : (s.deliver).b = s.b := rfl
@[simp] theorem State.deliver_c (s : State) : (s.deliver).c = s.c := rfl
@[simp] theorem State.deliver_d (s : State) : (s.deliver).d = s.d := rfl
@[simp] theorem State.deliver_W (s : State) : (s.deliver).W = s.W := rfl
@[simp] theorem State.deliver_BUF (s : State) : (s.deliver).BUF = s.BUF := rfl
@[simp] theorem State.deliver_CNT (s : State) : (s.deliver).CNT = s.CNT := rfl
@[simp] theorem State.deliver_LEN (s : State) : (s.deliver).LEN = s.LEN := rfl
@[simp] theorem State.deliver_RND (s : State) : (s.deliver).RND = s.RND := rfl
@[simp] theorem State.deliver_FIN (s : State) : (s.deliver).FIN = s.FIN := rfl
@[simp] theorem State.deliver_LENW (s : State) : (s.deliver).LENW = s.LENW := rfl
@[simp] theorem State.deliver_PH (s : State) : (s.deliver).PH = s.PH := rfl
@[simp] theorem State.deliver_ERR (s : State) : (s.deliver).ERR = s.ERR := rfl
@[simp] theorem State.deliver_ECODE (s : State) : (s.deliver).ECODE = s.ECODE := rfl
@[simp] theorem State.deliver_inputs (s : State) : (s.deliver).inputs = s.inputs := rfl
@[simp] theorem State.deliver_rsp (s : State) : (s.deliver).rsp = none := rfl
@[simp] theorem State.deliver_responses (s : State) : (s.deliver).responses = s.responses ++ s.rsp.toList := rfl
@[simp] theorem State.deliver_faultLog (s : State) : (s.deliver).faultLog = s.faultLog := rfl

/-! ### setInputs -/

@[simp] theorem State.setInputs_A (s : State) (l : List HostInput) : (s.setInputs l).A = s.A := rfl
@[simp] theorem State.setInputs_B (s : State) (l : List HostInput) : (s.setInputs l).B = s.B := rfl
@[simp] theorem State.setInputs_C (s : State) (l : List HostInput) : (s.setInputs l).C = s.C := rfl
@[simp] theorem State.setInputs_D (s : State) (l : List HostInput) : (s.setInputs l).D = s.D := rfl
@[simp] theorem State.setInputs_a (s : State) (l : List HostInput) : (s.setInputs l).a = s.a := rfl
@[simp] theorem State.setInputs_b (s : State) (l : List HostInput) : (s.setInputs l).b = s.b := rfl
@[simp] theorem State.setInputs_c (s : State) (l : List HostInput) : (s.setInputs l).c = s.c := rfl
@[simp] theorem State.setInputs_d (s : State) (l : List HostInput) : (s.setInputs l).d = s.d := rfl
@[simp] theorem State.setInputs_W (s : State) (l : List HostInput) : (s.setInputs l).W = s.W := rfl
@[simp] theorem State.setInputs_BUF (s : State) (l : List HostInput) : (s.setInputs l).BUF = s.BUF := rfl
@[simp] theorem State.setInputs_CNT (s : State) (l : List HostInput) : (s.setInputs l).CNT = s.CNT := rfl
@[simp] theorem State.setInputs_LEN (s : State) (l : List HostInput) : (s.setInputs l).LEN = s.LEN := rfl
@[simp] theorem State.setInputs_RND (s : State) (l : List HostInput) : (s.setInputs l).RND = s.RND := rfl
@[simp] theorem State.setInputs_FIN (s : State) (l : List HostInput) : (s.setInputs l).FIN = s.FIN := rfl
@[simp] theorem State.setInputs_LENW (s : State) (l : List HostInput) : (s.setInputs l).LENW = s.LENW := rfl
@[simp] theorem State.setInputs_PH (s : State) (l : List HostInput) : (s.setInputs l).PH = s.PH := rfl
@[simp] theorem State.setInputs_ERR (s : State) (l : List HostInput) : (s.setInputs l).ERR = s.ERR := rfl
@[simp] theorem State.setInputs_ECODE (s : State) (l : List HostInput) : (s.setInputs l).ECODE = s.ECODE := rfl
@[simp] theorem State.setInputs_inputs (s : State) (l : List HostInput) : (s.setInputs l).inputs = l := rfl
@[simp] theorem State.setInputs_rsp (s : State) (l : List HostInput) : (s.setInputs l).rsp = s.rsp := rfl
@[simp] theorem State.setInputs_responses (s : State) (l : List HostInput) : (s.setInputs l).responses = s.responses := rfl
@[simp] theorem State.setInputs_faultLog (s : State) (l : List HostInput) : (s.setInputs l).faultLog = s.faultLog := rfl

/-! ### applyReset -/

@[simp] theorem applyReset_A (s : State) : (applyReset s).A = 0 := rfl
@[simp] theorem applyReset_B (s : State) : (applyReset s).B = 0 := rfl
@[simp] theorem applyReset_C (s : State) : (applyReset s).C = 0 := rfl
@[simp] theorem applyReset_D (s : State) : (applyReset s).D = 0 := rfl
@[simp] theorem applyReset_a (s : State) : (applyReset s).a = 0 := rfl
@[simp] theorem applyReset_b (s : State) : (applyReset s).b = 0 := rfl
@[simp] theorem applyReset_c (s : State) : (applyReset s).c = 0 := rfl
@[simp] theorem applyReset_d (s : State) : (applyReset s).d = 0 := rfl
@[simp] theorem applyReset_W (s : State) : (applyReset s).W = Vector.replicate 16 0 := rfl
@[simp] theorem applyReset_BUF (s : State) : (applyReset s).BUF = Vector.replicate 64 0 := rfl
@[simp] theorem applyReset_CNT (s : State) : (applyReset s).CNT = 0 := rfl
@[simp] theorem applyReset_LEN (s : State) : (applyReset s).LEN = 0 := rfl
@[simp] theorem applyReset_RND (s : State) : (applyReset s).RND = 0 := rfl
@[simp] theorem applyReset_FIN (s : State) : (applyReset s).FIN = false := rfl
@[simp] theorem applyReset_LENW (s : State) : (applyReset s).LENW = false := rfl
@[simp] theorem applyReset_PH (s : State) : (applyReset s).PH = .idle := rfl
@[simp] theorem applyReset_ERR (s : State) : (applyReset s).ERR = false := rfl
@[simp] theorem applyReset_ECODE (s : State) : (applyReset s).ECODE = .noError := rfl
@[simp] theorem applyReset_inputs (s : State) : (applyReset s).inputs = s.inputs := rfl
@[simp] theorem applyReset_rsp (s : State) : (applyReset s).rsp = none := rfl
@[simp] theorem applyReset_responses (s : State) : (applyReset s).responses = s.responses := rfl
@[simp] theorem applyReset_faultLog (s : State) : (applyReset s).faultLog = s.faultLog := rfl

/-! ### The chaining and working values -/

@[simp] theorem State.setChain_chain (s : State) (q : Quad) : (s.setChain q).chain = q := rfl
@[simp] theorem State.setChain_work (s : State) (q : Quad) : (s.setChain q).work = s.work := rfl
@[simp] theorem State.setWork_work (s : State) (q : Quad) : (s.setWork q).work = q := rfl
@[simp] theorem State.setWork_chain (s : State) (q : Quad) : (s.setWork q).chain = s.chain := rfl
@[simp] theorem State.deliver_chain (s : State) : s.deliver.chain = s.chain := rfl
@[simp] theorem State.deliver_work (s : State) : s.deliver.work = s.work := rfl
@[simp] theorem State.setInputs_chain (s : State) (l : List HostInput) : (s.setInputs l).chain = s.chain := rfl
@[simp] theorem State.setInputs_work (s : State) (l : List HostInput) : (s.setInputs l).work = s.work := rfl

end Sys2Proof.Machine
end

