-- ==== Sys2Proof/Laws/Micro.lean ====
section
/-! SUPPORT. What each micro-step and each effect of a command does to each field of the state. -/

namespace Sys2Proof.Machine

/-! ### The sequencer's choices -/

@[simp] theorem phaseAfterPush_full (p : Phase) : phaseAfterPush 64#7 p = .parse := rfl

theorem phaseAfterPush_of_ne {cnt : BitVec 7} (p : Phase) (h : cnt ≠ 64#7) : phaseAfterPush cnt p = p :=
  if_neg h

theorem lengthPlaced_of_le {cnt : BitVec 7} (lenw : Bool) (h : cnt.toNat ≤ 56) : lengthPlaced cnt lenw = true := by
  simp [lengthPlaced, h]

theorem lengthPlaced_of_gt {cnt : BitVec 7} (lenw : Bool) (h : 56 < cnt.toNat) : lengthPlaced cnt lenw = lenw := by
  simp [lengthPlaced, Nat.not_le.mpr h]

@[simp] theorem nextRound_last : nextRound 63#6 = 63#6 := rfl

theorem nextRound_of_ne {i : BitVec 6} (h : i ≠ 63#6) : nextRound i = i + 1 := if_neg h

@[simp] theorem phaseAfterRound_last (p : Phase) : phaseAfterRound 63#6 p = .accum := rfl

theorem phaseAfterRound_of_ne {i : BitVec 6} (p : Phase) (h : i ≠ 63#6) : phaseAfterRound i p = p :=
  if_neg h

@[simp] theorem phaseAfterAccum_message (lenw : Bool) : phaseAfterAccum false lenw = .absorb := rfl
@[simp] theorem phaseAfterAccum_last : phaseAfterAccum true true = .done := rfl
@[simp] theorem phaseAfterAccum_first : phaseAfterAccum true false = .pad := rfl

@[simp] theorem firstCause_noError (e : CmdError) : firstCause .noError e = e.code := rfl

theorem firstCause_of_ne {c : ECode} (e : CmdError) (h : c ≠ .noError) : firstCause c e = c := by
  cases c <;> first | exact absurd rfl h | rfl

theorem firstCause_ne_noError {c : ECode} {e : CmdError} : firstCause c e ≠ .noError := by
  cases c <;> cases e <;> simp [firstCause, CmdError.code]

theorem firstCause_ne_code3 {c : ECode} {e : CmdError} (h : c ≠ .code3) : firstCause c e ≠ .code3 := by
  revert h
  cases c <;> cases e <;> simp [firstCause, CmdError.code]

/-! ### PAD (41 R162) -/

@[simp] theorem microPad_A (s : State) : (microPad s).A = s.A := by simp [microPad]
@[simp] theorem microPad_B (s : State) : (microPad s).B = s.B := by simp [microPad]
@[simp] theorem microPad_C (s : State) : (microPad s).C = s.C := by simp [microPad]
@[simp] theorem microPad_D (s : State) : (microPad s).D = s.D := by simp [microPad]
@[simp] theorem microPad_a (s : State) : (microPad s).a = s.a := by simp [microPad]
@[simp] theorem microPad_b (s : State) : (microPad s).b = s.b := by simp [microPad]
@[simp] theorem microPad_c (s : State) : (microPad s).c = s.c := by simp [microPad]
@[simp] theorem microPad_d (s : State) : (microPad s).d = s.d := by simp [microPad]
@[simp] theorem microPad_W (s : State) : (microPad s).W = s.W := by simp [microPad]
@[simp] theorem microPad_BUF (s : State) : (microPad s).BUF = Vector.ofFn (padByte s.BUF s.CNT s.LEN) := by simp [microPad]
@[simp] theorem microPad_CNT (s : State) : (microPad s).CNT = 64 := by simp [microPad]
@[simp] theorem microPad_LEN (s : State) : (microPad s).LEN = s.LEN := by simp [microPad]
@[simp] theorem microPad_RND (s : State) : (microPad s).RND = s.RND := by simp [microPad]
@[simp] theorem microPad_FIN (s : State) : (microPad s).FIN = s.FIN := by simp [microPad]
@[simp] theorem microPad_LENW (s : State) : (microPad s).LENW = lengthPlaced s.CNT s.LENW := by simp [microPad]
@[simp] theorem microPad_PH (s : State) : (microPad s).PH = .parse := by simp [microPad]
@[simp] theorem microPad_ERR (s : State) : (microPad s).ERR = s.ERR := by simp [microPad]
@[simp] theorem microPad_ECODE (s : State) : (microPad s).ECODE = s.ECODE := by simp [microPad]
@[simp] theorem microPad_inputs (s : State) : (microPad s).inputs = s.inputs := by simp [microPad]
@[simp] theorem microPad_rsp (s : State) : (microPad s).rsp = s.rsp := by simp [microPad]
@[simp] theorem microPad_responses (s : State) : (microPad s).responses = s.responses := by simp [microPad]
@[simp] theorem microPad_faultLog (s : State) : (microPad s).faultLog = s.faultLog := by simp [microPad]

/-! ### PARSE (42 R180) -/

@[simp] theorem microParse_A (s : State) : (microParse s).A = s.A := by simp [microParse, State.setWork, State.chain]
@[simp] theorem microParse_B (s : State) : (microParse s).B = s.B := by simp [microParse, State.setWork, State.chain]
@[simp] theorem microParse_C (s : State) : (microParse s).C = s.C := by simp [microParse, State.setWork, State.chain]
@[simp] theorem microParse_D (s : State) : (microParse s).D = s.D := by simp [microParse, State.setWork, State.chain]
@[simp] theorem microParse_a (s : State) : (microParse s).a = s.A := by simp [microParse, State.setWork, State.chain]
@[simp] theorem microParse_b (s : State) : (microParse s).b = s.B := by simp [microParse, State.setWork, State.chain]
@[simp] theorem microParse_c (s : State) : (microParse s).c = s.C := by simp [microParse, State.setWork, State.chain]
@[simp] theorem microParse_d (s : State) : (microParse s).d = s.D := by simp [microParse, State.setWork, State.chain]
@[simp] theorem microParse_W (s : State) : (microParse s).W = Vector.ofFn (blockWord s.BUF) := by simp [microParse, State.setWork, State.chain]
@[simp] theorem microParse_BUF (s : State) : (microParse s).BUF = s.BUF := by simp [microParse, State.setWork, State.chain]
@[simp] theorem microParse_CNT (s : State) : (microParse s).CNT = s.CNT := by simp [microParse, State.setWork, State.chain]
@[simp] theorem microParse_LEN (s : State) : (microParse s).LEN = s.LEN := by simp [microParse, State.setWork, State.chain]
@[simp] theorem microParse_RND (s : State) : (microParse s).RND = 0 := by simp [microParse, State.setWork, State.chain]
@[simp] theorem microParse_FIN (s : State) : (microParse s).FIN = s.FIN := by simp [microParse, State.setWork, State.chain]
@[simp] theorem microParse_LENW (s : State) : (microParse s).LENW = s.LENW := by simp [microParse, State.setWork, State.chain]
@[simp] theorem microParse_PH (s : State) : (microParse s).PH = .round := by simp [microParse, State.setWork, State.chain]
@[simp] theorem microParse_ERR (s : State) : (microParse s).ERR = s.ERR := by simp [microParse, State.setWork, State.chain]
@[simp] theorem microParse_ECODE (s : State) : (microParse s).ECODE = s.ECODE := by simp [microParse, State.setWork, State.chain]
@[simp] theorem microParse_inputs (s : State) : (microParse s).inputs = s.inputs := by simp [microParse, State.setWork, State.chain]
@[simp] theorem microParse_rsp (s : State) : (microParse s).rsp = s.rsp := by simp [microParse, State.setWork, State.chain]
@[simp] theorem microParse_responses (s : State) : (microParse s).responses = s.responses := by simp [microParse, State.setWork, State.chain]
@[simp] theorem microParse_faultLog (s : State) : (microParse s).faultLog = s.faultLog := by simp [microParse, State.setWork, State.chain]

/-! ### ROUND (43 R197) -/

@[simp] theorem microRound_A (s : State) : (microRound s).A = s.A := by simp [microRound, State.setWork]
@[simp] theorem microRound_B (s : State) : (microRound s).B = s.B := by simp [microRound, State.setWork]
@[simp] theorem microRound_C (s : State) : (microRound s).C = s.C := by simp [microRound, State.setWork]
@[simp] theorem microRound_D (s : State) : (microRound s).D = s.D := by simp [microRound, State.setWork]
@[simp] theorem microRound_a (s : State) : (microRound s).a = (roundStep s.RND s.W s.work).a := by simp [microRound, State.setWork]
@[simp] theorem microRound_b (s : State) : (microRound s).b = (roundStep s.RND s.W s.work).b := by simp [microRound, State.setWork]
@[simp] theorem microRound_c (s : State) : (microRound s).c = (roundStep s.RND s.W s.work).c := by simp [microRound, State.setWork]
@[simp] theorem microRound_d (s : State) : (microRound s).d = (roundStep s.RND s.W s.work).d := by simp [microRound, State.setWork]
@[simp] theorem microRound_W (s : State) : (microRound s).W = s.W := by simp [microRound, State.setWork]
@[simp] theorem microRound_BUF (s : State) : (microRound s).BUF = s.BUF := by simp [microRound, State.setWork]
@[simp] theorem microRound_CNT (s : State) : (microRound s).CNT = s.CNT := by simp [microRound, State.setWork]
@[simp] theorem microRound_LEN (s : State) : (microRound s).LEN = s.LEN := by simp [microRound, State.setWork]
@[simp] theorem microRound_RND (s : State) : (microRound s).RND = nextRound s.RND := by simp [microRound, State.setWork]
@[simp] theorem microRound_FIN (s : State) : (microRound s).FIN = s.FIN := by simp [microRound, State.setWork]
@[simp] theorem microRound_LENW (s : State) : (microRound s).LENW = s.LENW := by simp [microRound, State.setWork]
@[simp] theorem microRound_PH (s : State) : (microRound s).PH = phaseAfterRound s.RND s.PH := by simp [microRound, State.setWork]
@[simp] theorem microRound_ERR (s : State) : (microRound s).ERR = s.ERR := by simp [microRound, State.setWork]
@[simp] theorem microRound_ECODE (s : State) : (microRound s).ECODE = s.ECODE := by simp [microRound, State.setWork]
@[simp] theorem microRound_inputs (s : State) : (microRound s).inputs = s.inputs := by simp [microRound, State.setWork]
@[simp] theorem microRound_rsp (s : State) : (microRound s).rsp = s.rsp := by simp [microRound, State.setWork]
@[simp] theorem microRound_responses (s : State) : (microRound s).responses = s.responses := by simp [microRound, State.setWork]
@[simp] theorem microRound_faultLog (s : State) : (microRound s).faultLog = s.faultLog := by simp [microRound, State.setWork]

/-! ### ACCUM (44 R230) -/

@[simp] theorem microAccum_A (s : State) : (microAccum s).A = s.A + s.a := by simp [microAccum, State.setChain, State.chain, State.work, Quad.add]
@[simp] theorem microAccum_B (s : State) : (microAccum s).B = s.B + s.b := by simp [microAccum, State.setChain, State.chain, State.work, Quad.add]
@[simp] theorem microAccum_C (s : State) : (microAccum s).C = s.C + s.c := by simp [microAccum, State.setChain, State.chain, State.work, Quad.add]
@[simp] theorem microAccum_D (s : State) : (microAccum s).D = s.D + s.d := by simp [microAccum, State.setChain, State.chain, State.work, Quad.add]
@[simp] theorem microAccum_a (s : State) : (microAccum s).a = s.a := by simp [microAccum, State.setChain, State.chain, State.work, Quad.add]
@[simp] theorem microAccum_b (s : State) : (microAccum s).b = s.b := by simp [microAccum, State.setChain, State.chain, State.work, Quad.add]
@[simp] theorem microAccum_c (s : State) : (microAccum s).c = s.c := by simp [microAccum, State.setChain, State.chain, State.work, Quad.add]
@[simp] theorem microAccum_d (s : State) : (microAccum s).d = s.d := by simp [microAccum, State.setChain, State.chain, State.work, Quad.add]
@[simp] theorem microAccum_W (s : State) : (microAccum s).W = s.W := by simp [microAccum, State.setChain, State.chain, State.work, Quad.add]
@[simp] theorem microAccum_BUF (s : State) : (microAccum s).BUF = s.BUF := by simp [microAccum, State.setChain, State.chain, State.work, Quad.add]
@[simp] theorem microAccum_CNT (s : State) : (microAccum s).CNT = 0 := by simp [microAccum, State.setChain, State.chain, State.work, Quad.add]
@[simp] theorem microAccum_LEN (s : State) : (microAccum s).LEN = s.LEN := by simp [microAccum, State.setChain, State.chain, State.work, Quad.add]
@[simp] theorem microAccum_RND (s : State) : (microAccum s).RND = s.RND := by simp [microAccum, State.setChain, State.chain, State.work, Quad.add]
@[simp] theorem microAccum_FIN (s : State) : (microAccum s).FIN = s.FIN := by simp [microAccum, State.setChain, State.chain, State.work, Quad.add]
@[simp] theorem microAccum_LENW (s : State) : (microAccum s).LENW = s.LENW := by simp [microAccum, State.setChain, State.chain, State.work, Quad.add]
@[simp] theorem microAccum_PH (s : State) : (microAccum s).PH = phaseAfterAccum s.FIN s.LENW := by simp [microAccum, State.setChain, State.chain, State.work, Quad.add]
@[simp] theorem microAccum_ERR (s : State) : (microAccum s).ERR = s.ERR := by simp [microAccum, State.setChain, State.chain, State.work, Quad.add]
@[simp] theorem microAccum_ECODE (s : State) : (microAccum s).ECODE = s.ECODE := by simp [microAccum, State.setChain, State.chain, State.work, Quad.add]
@[simp] theorem microAccum_inputs (s : State) : (microAccum s).inputs = s.inputs := by simp [microAccum, State.setChain, State.chain, State.work, Quad.add]
@[simp] theorem microAccum_rsp (s : State) : (microAccum s).rsp = s.rsp := by simp [microAccum, State.setChain, State.chain, State.work, Quad.add]
@[simp] theorem microAccum_responses (s : State) : (microAccum s).responses = s.responses := by simp [microAccum, State.setChain, State.chain, State.work, Quad.add]
@[simp] theorem microAccum_faultLog (s : State) : (microAccum s).faultLog = s.faultLog := by simp [microAccum, State.setChain, State.chain, State.work, Quad.add]

/-! ### The chaining and working values -/

@[simp] theorem microPad_chain (s : State) : (microPad s).chain = s.chain := by simp [State.chain]
@[simp] theorem microPad_work (s : State) : (microPad s).work = s.work := by simp [State.work]
@[simp] theorem microParse_chain (s : State) : (microParse s).chain = s.chain := by simp [State.chain]
@[simp] theorem microParse_work (s : State) : (microParse s).work = s.chain := by simp [State.chain, State.work]
@[simp] theorem microRound_chain (s : State) : (microRound s).chain = s.chain := by simp [State.chain]
@[simp] theorem microRound_work (s : State) : (microRound s).work = roundStep s.RND s.W s.work := by simp [State.work]
@[simp] theorem microAccum_chain (s : State) : (microAccum s).chain = s.chain.add s.work := by simp [State.chain, State.work, Quad.add]
@[simp] theorem microAccum_work (s : State) : (microAccum s).work = s.work := by simp [State.work]

/-! ### What every micro-step leaves alone -/

@[simp] theorem microStep_LEN (s : State) : (microStep s).LEN = s.LEN := by
  unfold microStep
  cases s.PH <;> simp
@[simp] theorem microStep_FIN (s : State) : (microStep s).FIN = s.FIN := by
  unfold microStep
  cases s.PH <;> simp
@[simp] theorem microStep_ERR (s : State) : (microStep s).ERR = s.ERR := by
  unfold microStep
  cases s.PH <;> simp
@[simp] theorem microStep_ECODE (s : State) : (microStep s).ECODE = s.ECODE := by
  unfold microStep
  cases s.PH <;> simp
@[simp] theorem microStep_inputs (s : State) : (microStep s).inputs = s.inputs := by
  unfold microStep
  cases s.PH <;> simp
@[simp] theorem microStep_rsp (s : State) : (microStep s).rsp = s.rsp := by
  unfold microStep
  cases s.PH <;> simp
@[simp] theorem microStep_responses (s : State) : (microStep s).responses = s.responses := by
  unfold microStep
  cases s.PH <;> simp
@[simp] theorem microStep_faultLog (s : State) : (microStep s).faultLog = s.faultLog := by
  unfold microStep
  cases s.PH <;> simp

end Sys2Proof.Machine
end

