-- ==== Sys2Proof/Laws/Ops.lean ====
section
/-! SUPPORT. What each shared operation can do, said once: the proofs cite these lemmas and do not unfold the operations. -/

namespace Sys2Proof.Machine

/-! ### Codes and phases -/

theorem reservedCode_eq_none {s : State} : s.reservedCode = none ↔ s.CodesAssigned := by
  unfold State.reservedCode
  constructor
  · intro h
    split at h
    · cases h
    · split at h
      · cases h
      · exact ⟨‹_›, ‹_›⟩
  · rintro ⟨h1, h2⟩
    simp [h1, h2]

theorem reservedCode_of_assigned {s : State} (h : s.CodesAssigned) : s.reservedCode = none :=
  reservedCode_eq_none.mpr h

theorem busy_eq_true {s : State} :
    s.busy = true ↔ s.PH = .pad ∨ s.PH = .parse ∨ s.PH = .round ∨ s.PH = .accum := by
  unfold State.busy Phase.busy
  cases s.PH <;> simp

theorem busy_eq_false_of_ready {s : State} (h : s.Ready) : s.busy = false := by
  rcases h with h | h | h <;> simp [State.busy, Phase.busy, h]

theorem ready_of_not_busy {s : State} (h : s.CodesAssigned) (hb : s.busy = false) : s.Ready := by
  unfold State.busy Phase.busy at hb
  have h7 := h.ph
  unfold State.Ready
  revert hb h7
  cases s.PH <;> simp

theorem Inv_codesAssigned {s : State} (h : s.Inv) : s.CodesAssigned := ⟨h.ph_ne_code7, h.ecode_ne_code3⟩

/-! ### The legality table -/

theorem legality_init {p : Phase} (h : p.busy = false) : legality .init p = .executes := by simp [legality, h]

theorem legality_rdstat {p : Phase} (h : p.busy = false) : legality .rdstat p = .executes := by simp [legality, h]

theorem legality_push {p : Phase} (b : BitVec 8) (h : p.busy = false) :
    legality (.push b) p = if p = .absorb then .executes else .phaseError := by simp [legality, h]

theorem legality_final {p : Phase} (h : p.busy = false) :
    legality .final p = if p = .absorb then .executes else .phaseError := by simp [legality, h]

theorem legality_rdbyte {p : Phase} (k : BitVec 4) (h : p.busy = false) :
    legality (.rdbyte k) p = if p = .done then .executes else .phaseError := by simp [legality, h]

theorem legality_rdhex {p : Phase} (k : BitVec 5) (h : p.busy = false) :
    legality (.rdhex k) p = if p = .done then .executes else .phaseError := by simp [legality, h]

/-! ### Sequencing of outcomes -/

@[simp] theorem andThen_next (s : State) (f : State → Result) : andThen (.next s) f = f s := rfl
@[simp] theorem andThen_fault (e : Fault) (f : State → Result) : andThen (.fault e) f = .fault e := rfl
@[simp] theorem andThen_refused (e : Refusal) (f : State → Result) : andThen (.refused e) f = .refused e := rfl

/-! ### The block buffer -/

theorem appendByte_of_lt (v : Byte) {s : State} (h : s.CNT.toNat < 64) :
    appendByte v s = .next { s with BUF := s.BUF.set s.CNT.toNat v h, CNT := s.CNT + 1 } := by
  simp [appendByte, h]

theorem appendByte_of_ge (v : Byte) {s : State} (h : 64 ≤ s.CNT.toNat) :
    appendByte v s = .fault (.bufIndexOutOfRange s.CNT) := by
  simp [appendByte, Nat.not_lt.mpr h]

theorem pushEffect_of_lt (b : Byte) {s : State} (h : s.CNT.toNat < 64) :
    pushEffect b s = .next { s with
      BUF := s.BUF.set s.CNT.toNat b h, CNT := s.CNT + 1, LEN := s.LEN + 8,
      PH := phaseAfterPush (s.CNT + 1) s.PH } := by
  simp [pushEffect, appendByte_of_lt b h]

theorem finalEffect_of_lt {s : State} (h : s.CNT.toNat < 64) :
    finalEffect s = .next { s with
      BUF := s.BUF.set s.CNT.toNat 0x80 h, CNT := s.CNT + 1, FIN := true, PH := .pad } := by
  simp [finalEffect, appendByte_of_lt _ h]

/-- All that PUSH's pseudocode can do. -/
theorem pushEffect_cases {b : Byte} {s t : State} (h : pushEffect b s = .next t) :
    ∃ hlt : s.CNT.toNat < 64, t = { s with
      BUF := s.BUF.set s.CNT.toNat b hlt, CNT := s.CNT + 1, LEN := s.LEN + 8,
      PH := phaseAfterPush (s.CNT + 1) s.PH } := by
  by_cases hlt : s.CNT.toNat < 64
  · rw [pushEffect_of_lt b hlt] at h
    cases h
    exact ⟨hlt, rfl⟩
  · simp [pushEffect, appendByte_of_ge b (Nat.le_of_not_lt hlt)] at h

/-- All that FINAL's pseudocode can do. -/
theorem finalEffect_cases {s t : State} (h : finalEffect s = .next t) :
    ∃ hlt : s.CNT.toNat < 64, t = { s with
      BUF := s.BUF.set s.CNT.toNat 0x80 hlt, CNT := s.CNT + 1, FIN := true, PH := .pad } := by
  by_cases hlt : s.CNT.toNat < 64
  · rw [finalEffect_of_lt hlt] at h
    cases h
    exact ⟨hlt, rfl⟩
  · simp [finalEffect, appendByte_of_ge _ (Nat.le_of_not_lt hlt)] at h

/-! ### A decoded command -/

theorem runCommand_refused {i : Instr} {f : State → Result} {s : State} {r : Refusal} (h : s.reservedCode = some r) :
    runCommand i f s = .refused r := by
  simp [runCommand, h]

theorem runCommand_executes {i : Instr} {f : State → Result} {s : State} (hc : s.CodesAssigned)
    (hl : legality i s.PH = .executes) : runCommand i f s = f s := by
  simp [runCommand, reservedCode_of_assigned hc, hl]

theorem runCommand_phaseError {i : Instr} {f : State → Result} {s : State} (hc : s.CodesAssigned)
    (hl : legality i s.PH = .phaseError) : runCommand i f s = .next (raiseCmdError (encode i) .phase s) := by
  simp [runCommand, reservedCode_of_assigned hc, hl]

theorem runCommand_held {i : Instr} {f : State → Result} {s : State} (hc : s.CodesAssigned)
    (hl : legality i s.PH = .held) : runCommand i f s = .next s := by
  simp [runCommand, reservedCode_of_assigned hc, hl]

/-- All that a decoded command can do: its effect, a command error of cause PHASE, or nothing while held. -/
theorem runCommand_cases {i : Instr} {f : State → Result} {s t : State} (h : runCommand i f s = .next t) :
    s.CodesAssigned ∧
      ((legality i s.PH = .executes ∧ f s = .next t) ∨
       (legality i s.PH = .phaseError ∧ t = raiseCmdError (encode i) .phase s) ∨
       (legality i s.PH = .held ∧ t = s)) := by
  unfold runCommand at h
  split at h
  · cases h
  · next hr =>
    refine ⟨reservedCode_eq_none.mp hr, ?_⟩
    split at h
    · exact .inl ⟨‹_›, h⟩
    · cases h
      exact .inr (.inl ⟨‹_›, rfl⟩)
    · cases h
      exact .inr (.inr ⟨‹_›, rfl⟩)

/-- The pseudocode of each command, as `exec` runs it. -/
def effectOf : Instr → State → Result
  | .init => initEffect
  | .push b => pushEffect b
  | .final => finalEffect
  | .rdbyte k => rdbyteEffect k
  | .rdhex k => rdhexEffect k
  | .rdstat => rdstatEffect

theorem exec_eq (i : Instr) (s : State) : exec i s = runCommand i (effectOf i) s := by cases i <;> rfl

theorem legality_of_ready (i : Instr) {p : Phase} (h : p.busy = false) :
    (Permitted i p → legality i p = .executes) ∧ (¬ Permitted i p → legality i p = .phaseError) := by
  unfold legality Permitted
  rw [if_neg (by simp [h])]
  cases i <;> simp +contextual

/-- A permitted command in a phase that accepts commands has its effect (60 R260, R261). -/
theorem exec_permitted {i : Instr} {s : State} (hc : s.CodesAssigned) (hr : s.Ready) (hp : Permitted i s.PH) :
    exec i s = effectOf i s := by
  rw [exec_eq, runCommand_executes hc ((legality_of_ready i (busy_eq_false_of_ready hr)).1 hp)]

/-- A command that is not permitted is a command error of cause PHASE (60 R261, R262). -/
theorem exec_not_permitted {i : Instr} {s : State} (hc : s.CodesAssigned) (hr : s.Ready) (hp : ¬ Permitted i s.PH) :
    exec i s = .next (raiseCmdError (encode i) .phase s) := by
  rw [exec_eq, runCommand_phaseError hc ((legality_of_ready i (busy_eq_false_of_ready hr)).2 hp)]

/-- A command asked of a busy engine is held: nothing happens (30 R102). -/
theorem exec_busy {i : Instr} {s : State} (hc : s.CodesAssigned) (hb : s.busy = true) : exec i s = .next s := by
  rw [exec_eq, runCommand_held hc]
  have : s.PH.busy = true := hb
  simp [legality, this]

/-- All that a command's meaning can do. -/
theorem exec_cases {i : Instr} {s t : State} (h : exec i s = .next t) :
    s.CodesAssigned ∧
      ((s.busy = true ∧ t = s) ∨
       (s.Ready ∧ ¬ Permitted i s.PH ∧ t = raiseCmdError (encode i) .phase s) ∨
       (s.Ready ∧ Permitted i s.PH ∧ effectOf i s = .next t)) := by
  have hc : s.CodesAssigned := by
    rw [exec_eq] at h
    exact (runCommand_cases h).1
  refine ⟨hc, ?_⟩
  cases hb : s.busy with
  | true =>
    rw [exec_busy hc hb] at h
    cases h
    exact .inl ⟨rfl, rfl⟩
  | false =>
    have hr := ready_of_not_busy hc hb
    by_cases hp : Permitted i s.PH
    · rw [exec_permitted hc hr hp] at h
      exact .inr (.inr ⟨hr, hp, h⟩)
    · rw [exec_not_permitted hc hr hp] at h
      cases h
      exact .inr (.inl ⟨hr, hp, rfl⟩)

/-! ### One step -/

theorem step_reset {s : State} {rest : List HostInput} (h : s.inputs = .reset :: rest) :
    step s = .next (applyReset (s.setInputs rest)) := by
  simp [step, oneStep, h]

theorem engineFirst_refused {l : List HostInput} {r : Result} {s : State} {e : Refusal} (h : s.reservedCode = some e) :
    engineFirst l r s = .refused e := by
  simp [engineFirst, h]

theorem engineFirst_busy {l : List HostInput} {r : Result} {s : State} (hc : s.CodesAssigned) (hb : s.busy = true) :
    engineFirst l r s = .next (microStep (s.deliver.setInputs l)) := by
  simp [engineFirst, reservedCode_of_assigned hc, hb]

theorem engineFirst_ready {l : List HostInput} {r : Result} {s : State} (hc : s.CodesAssigned) (hb : s.busy = false) :
    engineFirst l r s = r := by
  simp [engineFirst, reservedCode_of_assigned hc, hb]

@[simp] theorem heldStream_nil : heldStream [] = [] := rfl
@[simp] theorem heldStream_command (w : CmdWord) (rest : List HostInput) :
    heldStream (.command w :: rest) = .command w :: rest := rfl
@[simp] theorem heldStream_idle (rest : List HostInput) : heldStream (.idle :: rest) = rest := rfl

theorem heldStream_of_waits {l : List HostInput} (h : HostWaits l) : heldStream l = l := by
  rcases h with rfl | ⟨w, rest, rfl⟩ <;> rfl

theorem noReset_of_waits {l : List HostInput} (h : HostWaits l) : NoReset l := by
  rcases h with rfl | ⟨w, rest, rfl⟩ <;> simp [NoReset]

/-- A busy engine takes its micro-step whatever the host does, but for a reset (10 R43). -/
theorem step_busy_noReset {s : State} (hc : s.CodesAssigned) (hb : s.busy = true) (hn : NoReset s.inputs) :
    step s = .next (microStep (s.deliver.setInputs (heldStream s.inputs))) := by
  unfold NoReset at hn
  match h : s.inputs with
  | [] => simp [step, oneStep, h, engineFirst_busy hc hb]
  | .command w :: rest => simp [step, oneStep, h, engineFirst_busy hc hb]
  | .idle :: rest => simp [step, oneStep, h, engineFirst_busy hc hb]
  | .reset :: rest => simp [h] at hn

/-- A busy engine takes its micro-step, and a host that waits keeps its command at the port (10 R43, 30 R102). -/
theorem step_busy {s : State} (hc : s.CodesAssigned) (hb : s.busy = true) (hw : HostWaits s.inputs) :
    step s = .next (microStep (s.deliver.setInputs s.inputs)) := by
  rw [step_busy_noReset hc hb (noReset_of_waits hw), heldStream_of_waits hw]

theorem step_accept {s : State} {w : CmdWord} {rest : List HostInput} (hc : s.CodesAssigned) (hb : s.busy = false)
    (h : s.inputs = .command w :: rest) : step s = acceptWord w (s.deliver.setInputs rest) := by
  simp [step, oneStep, h, engineFirst_ready hc hb]

theorem step_idle {s : State} {rest : List HostInput} (hc : s.CodesAssigned) (hb : s.busy = false)
    (h : s.inputs = .idle :: rest) : step s = .next (s.deliver.setInputs rest) := by
  simp [step, oneStep, h, engineFirst_ready hc hb]

theorem step_no_input {s : State} (hc : s.CodesAssigned) (hb : s.busy = false) (h : s.inputs = []) :
    step s = .next s.deliver := by
  simp [step, oneStep, h, engineFirst_ready hc hb]

/-- All that a step can do: take a reset; take the engine's micro-step; accept a word; or let a step pass. -/
theorem step_cases {s t : State} (h : step s = .next t) :
    (∃ rest, s.inputs = .reset :: rest ∧ t = applyReset (s.setInputs rest)) ∨
    (s.CodesAssigned ∧ s.inputs.head? ≠ some .reset ∧
      ((s.busy = true ∧ ∃ l, t = microStep (s.deliver.setInputs l)) ∨
       (s.busy = false ∧ ∃ w rest, s.inputs = .command w :: rest ∧ acceptWord w (s.deliver.setInputs rest) = .next t) ∨
       (s.busy = false ∧ ∃ l, (∀ w rest, s.inputs ≠ .command w :: rest) ∧ t = s.deliver.setInputs l))) := by
  have key : ∀ {l : List HostInput} {r : Result}, engineFirst l r s = .next t →
      s.CodesAssigned ∧ ((s.busy = true ∧ t = microStep (s.deliver.setInputs l)) ∨ (s.busy = false ∧ r = .next t)) := by
    intro l r hr
    unfold engineFirst at hr
    split at hr
    · cases hr
    · next hn =>
      refine ⟨reservedCode_eq_none.mp hn, ?_⟩
      split at hr
      · cases hr
        exact .inl ⟨‹_›, rfl⟩
      · next hb => exact .inr ⟨by simpa using hb, hr⟩
  unfold step oneStep at h
  split at h
  · next rest hi =>
    cases h
    exact .inl ⟨rest, hi, rfl⟩
  · next w rest hi =>
    obtain ⟨hc, ⟨hb, ht⟩ | ⟨hb, ht⟩⟩ := key h
    · exact .inr ⟨hc, by simp [hi], .inl ⟨hb, _, ht⟩⟩
    · exact .inr ⟨hc, by simp [hi], .inr (.inl ⟨hb, w, rest, hi, ht⟩)⟩
  · next rest hi =>
    obtain ⟨hc, ⟨hb, ht⟩ | ⟨hb, ht⟩⟩ := key h
    · exact .inr ⟨hc, by simp [hi], .inl ⟨hb, _, ht⟩⟩
    · cases ht
      exact .inr ⟨hc, by simp [hi], .inr (.inr ⟨hb, rest, by simp [hi], rfl⟩)⟩
  · next hi =>
    obtain ⟨hc, ⟨hb, ht⟩ | ⟨hb, ht⟩⟩ := key h
    · exact .inr ⟨hc, by simp [hi], .inl ⟨hb, _, ht⟩⟩
    · cases ht
      refine .inr ⟨hc, by simp [hi], .inr (.inr ⟨hb, [], by simp [hi], ?_⟩)⟩
      cases s
      cases hi
      rfl

/-- What accepting a word can do (60 R260): a command error of cause MALFORMED, or the command's own meaning. -/
theorem acceptWord_cases {w : CmdWord} {s t : State} (h : acceptWord w s = .next t) :
    (∃ why, decode w = .malformed why ∧ t = raiseCmdError w .malformed s) ∨
    (∃ i, decode w = .command i ∧ exec i s = .next t) := by
  unfold acceptWord at h
  split at h
  · next why hd =>
    cases h
    exact .inl ⟨why, hd, rfl⟩
  · next i hd => exact .inr ⟨i, hd, h⟩

/-! ### Micro-steps -/

theorem microStep_pad {s : State} (h : s.PH = .pad) : microStep s = microPad s := by simp [microStep, h]
theorem microStep_parse {s : State} (h : s.PH = .parse) : microStep s = microParse s := by simp [microStep, h]
theorem microStep_round {s : State} (h : s.PH = .round) : microStep s = microRound s := by simp [microStep, h]
theorem microStep_accum {s : State} (h : s.PH = .accum) : microStep s = microAccum s := by simp [microStep, h]

/-! ### Runs -/

@[simp] theorem runFor_zero (s : State) : runFor 0 s = .next s := rfl

theorem runFor_step (n : Nat) (s : State) : runFor (n + 1) s = andThen (step s) (runFor n) := by
  cases h : step s <;> simp only [runFor, Host.Core.run, andThen] <;>
    (rw [show Sys2Proof.core.step s = _ from h]) <;> rfl

theorem runFor_succ {n : Nat} {s t : State} (h : step s = .next t) : runFor (n + 1) s = runFor n t := by
  simp [runFor_step, h]

/-- A run of `m + n` steps is a run of m steps and then one of n. -/
theorem runFor_add (m n : Nat) (s : State) : runFor (m + n) s = andThen (runFor m s) (runFor n) := by
  induction m generalizing s with
  | zero => simp
  | succ m ih =>
    rw [show m + 1 + n = (m + n) + 1 by omega, runFor_step, runFor_step]
    cases step s <;> simp [ih]

end Sys2Proof.Machine
end

