-- ==== Sys2Proof/Laws/PerInstr.lean ====
section
/-! SUPPORT. Families of statements made per instruction (LAWS.json): the word of every command is a well-formed word
(30 R107) and is selected by its own row of the opcode table (30 R105). -/

namespace Sys2Proof.Laws.EncodedWord

/-- The word the encoder gives a command is no malformed word, and its own row of 30 R105 selects it. -/
def Statement (i : Instr) : Prop := WellFormed.word (encode i) = true ∧ selectsRow (encode i) (mnemonic i) = true

theorem init : Statement .init := by unfold Statement; decide

theorem push (b : BitVec 8) : Statement (.push b) := by unfold Statement; revert b; decide

theorem final : Statement .final := by unfold Statement; decide

theorem rdbyte (k : BitVec 4) : Statement (.rdbyte k) := by unfold Statement; revert k; decide

theorem rdhex (k : BitVec 5) : Statement (.rdhex k) := by unfold Statement; revert k; decide

theorem rdstat : Statement .rdstat := by unfold Statement; decide

end Sys2Proof.Laws.EncodedWord
end

