-- ==== Sys2Proof/Tests/Slice0.lean ====
section
/-! SUPPORT. Smoke tests of the well-formedness checks, decode tests on words written out from 30 R100 and R105, small tests
of each command and micro-step with the expected values of spec/95_test_vectors.md, and witnesses that the hypotheses of the
obligations can be met. -/

open Sys2Proof Sys2Proof.Machine

namespace Sys2Proof.Tests

/-! ### Small states -/

/-- IDLE, as after reset, with a host stream. -/
def idleWith (l : List HostInput) : State := { State.reset with inputs := l }

/-- An open message with CNT bytes in BUF. -/
def absorbing (cnt : BitVec 7) (l : List HostInput) : State := { State.reset with PH := .absorb, CNT := cnt, inputs := l }

/-- Padding, with CNT bytes in BUF. -/
def padding (cnt : BitVec 7) (l : List HostInput) : State :=
  { State.reset with PH := .pad, FIN := true, CNT := cnt, inputs := l }

/-- A compression, in the given phase, of a block that is not the last. -/
def compressing (p : Phase) (rnd : BitVec 6) (l : List HostInput) : State :=
  { State.reset with PH := p, CNT := 64, RND := rnd, inputs := l }

/-- A digest is ready: that of "abc" (95 V3, V41). -/
def finished (l : List HostInput) : State :=
  { State.reset with
    A := 0x98500190#32, B := 0xb04fd23c#32, C := 0x7d3f96d6#32, D := 0x727fe128#32,
    FIN := true, LENW := true, PH := .done, inputs := l }

/-- The state after a PHASE error. -/
def failed (s : State) : State := { s with ERR := true, ECODE := .phase, faultLog := [.phase] }

/-- The next state, if there is one. -/
def nextState (r : Result) : Option State :=
  match r with
  | .next s => some s
  | .fault _ => none
  | .refused _ => none

/-- The host presents one word. -/
def one (w : CmdWord) : List HostInput := [.command w]

/-! ### Well-formedness: each clause of 30 R107 refuses an ill-formed word -/

theorem test_wf_opcode_zero : WellFormed.opAssigned 0x0000#16 = false ∧ WellFormed.word 0x0000#16 = false := by decide
theorem test_wf_opcode_seven : WellFormed.opAssigned 0x7000#16 = false ∧ WellFormed.word 0x7000#16 = false := by decide
theorem test_wf_reserved : WellFormed.rsvZero 0x2161#16 = false ∧ WellFormed.word 0x2161#16 = false := by decide
theorem test_wf_no_operand : WellFormed.noOperand 0x1001#16 = false ∧ WellFormed.word 0x1001#16 = false := by decide
theorem test_wf_byte_index : WellFormed.byteIndex 0x4010#16 = false ∧ WellFormed.word 0x4010#16 = false := by decide
theorem test_wf_hex_index : WellFormed.hexIndex 0x5020#16 = false ∧ WellFormed.word 0x5020#16 = false := by decide
theorem test_wf_accepts_legal :
    (WellFormed.word 0x1000#16 && WellFormed.word 0x20ff#16 && WellFormed.word 0x3000#16 && WellFormed.word 0x400f#16 &&
      WellFormed.word 0x501f#16 && WellFormed.word 0x6000#16) = true := by decide
/-- 30 R111: operands out of range are assembly errors. -/
theorem test_wf_assembler_ranges :
    (assemble (.push 256), assemble (.rdbyte 16), assemble (.rdhex 32), assemble (.word 65536)) =
      (none, none, none, none) := by decide

/-! ### Decoding: fields OP, RSV, OPD of 30 R100 written out bit by bit -/

theorem test_decode_init : decode 0b0001_0000_00000000#16 = .command .init := by decide
theorem test_decode_push : decode 0b0010_0000_10110110#16 = .command (.push 0b10110110#8) := by decide
theorem test_decode_final : decode 0b0011_0000_00000000#16 = .command .final := by decide
theorem test_decode_rdbyte : decode 0b0100_0000_0000_1010#16 = .command (.rdbyte 10#4) := by decide
theorem test_decode_rdhex : decode 0b0101_0000_000_10110#16 = .command (.rdhex 22#5) := by decide
theorem test_decode_rdstat : decode 0b0110_0000_00000000#16 = .command .rdstat := by decide
/-- 95 V50: words with a must-be-zero bit set are malformed. -/
theorem test_decode_malformed :
    decode 0x1100#16 = .malformed .reservedField ∧ decode 0x1001#16 = .malformed .operandBits ∧
    decode 0x3080#16 = .malformed .operandBits ∧ decode 0x4010#16 = .malformed .operandBits ∧
    decode 0x5020#16 = .malformed .operandBits ∧ decode 0x6001#16 = .malformed .operandBits ∧
    decode 0x8000#16 = .malformed .reservedOpcode := by decide
theorem test_decode_table_word :
    decodeTableWord 16 0x501f = some (.rdhex 31#5) ∧ decodeTableWord 16 0x7000 = none := by decide
/-- 95 P2: the words of the program. -/
theorem test_encode_words :
    (encode .init, encode (.push 0x61#8), encode .final, encode (.rdbyte 15#4), encode (.rdhex 31#5), encode .rdstat) =
      (0x1000#16, 0x2061#16, 0x3000#16, 0x400f#16, 0x501f#16, 0x6000#16) := by decide

/-! ### Commands -/

/-- 95 V6. -/
theorem test_init_from_reset :
    (nextState (step (State.reset.withFetchWord 16 0x1000))).map
      (fun t => (t.PH, t.A, t.B, t.C, t.D, t.CNT, t.LEN, t.status)) =
    some (.absorb, 0x67452301#32, 0xefcdab89#32, 0x98badcfe#32, 0x10325476#32, 0, 0, 0x03#8) := by decide
/-- 95 V6, second part: INIT abandons an open message and clears an error; 60 R268 keeps the log. -/
theorem test_init_clears_error :
    (nextState (exec .init (failed (absorbing 2 [])))).map (fun t => (t.PH, t.CNT, t.ERR, t.ECODE, t.faultLog)) =
    some (.absorb, 0, false, .noError, [.phase]) := by decide
/-- 95 V7, the row of the 64th PUSH. -/
theorem test_push_fills_block :
    (nextState (exec (.push 0x61#8) { absorbing 63 [] with LEN := 504 })).map
      (fun t => (t.BUF[63], t.CNT, t.LEN, t.PH, t.status)) =
    some (0x61#8, 64, 512, .parse, 0x00#8) := by decide
/-- 95 V7, the LEN wrap corner. -/
theorem test_push_len_wraps :
    (nextState (exec (.push 0x61#8) { absorbing 3 [] with LEN := 0xfffffffffffffff8#64 })).map
      (fun t => (t.BUF[3], t.CNT, t.LEN, t.PH, t.ERR)) =
    some (0x61#8, 4, 0, .absorb, false) := by decide
/-- 95 V8: FINAL itself after "abc". -/
theorem test_final_marks_end :
    (nextState (exec .final (absorbing 3 []))).map (fun t => (t.BUF[3], t.CNT, t.FIN, t.LENW, t.PH, t.status)) =
    some (0x80#8, 4, true, false, .pad, 0x00#8) := by decide
/-- 95 V41. -/
theorem test_rdbyte_bytes_of_abc :
    ((nextState (exec (.rdbyte 0#4) (finished []))).bind (·.rsp), (nextState (exec (.rdbyte 7#4) (finished []))).bind (·.rsp),
      (nextState (exec (.rdbyte 15#4) (finished []))).bind (·.rsp)) = (some 0x90#8, some 0xb0#8, some 0x72#8) := by decide
/-- 95 V41. -/
theorem test_rdhex_characters_of_abc :
    ((nextState (exec (.rdhex 0#5) (finished []))).bind (·.rsp), (nextState (exec (.rdhex 1#5) (finished []))).bind (·.rsp),
      (nextState (exec (.rdhex 9#5) (finished []))).bind (·.rsp), (nextState (exec (.rdhex 31#5) (finished []))).bind (·.rsp)) =
    (some 0x39#8, some 0x30#8, some 0x63#8, some 0x32#8) := by decide
/-- 95 V43. -/
theorem test_rdstat_status :
    ((nextState (exec .rdstat State.reset)).bind (·.rsp), (nextState (exec .rdstat (absorbing 0 []))).bind (·.rsp),
      (nextState (exec .rdstat (finished []))).bind (·.rsp), (nextState (exec .rdstat (failed (finished [])))).bind (·.rsp)) =
    (some 0x01#8, some 0x03#8, some 0x05#8, some 0x2d#8) := by decide

/-! ### Command errors, the busy hold and reset -/

/-- 95 V60, first two rows. -/
theorem test_phase_error_from_reset :
    (nextState (step (idleWith (one 0x2061#16)))).map (fun t => (t.rsp, t.status, t.CNT, t.faultLog)) =
      some (none, 0x29#8, 0, [.phase]) ∧
    (nextState (step (idleWith (one 0x4000#16)))).map (fun t => (t.rsp, t.status, t.CNT, t.faultLog)) =
      some (some 0x00#8, 0x29#8, 0, [.phase]) := by decide
/-- 95 V60: MALFORMED comes before PHASE, and ECODE keeps the first cause. -/
theorem test_malformed_and_first_cause :
    ((nextState (step (absorbing 0 (one 0x4010#16)))).map (fun t => (t.rsp, t.ECODE, t.status)),
     (nextState (step (failed (idleWith (one 0x1001#16))))).map (fun t => (t.rsp, t.ECODE, t.faultLog))) =
    (some (some 0x00#8, .malformed, 0x1b#8), some (none, .phase, [.phase, .malformed])) := by decide
/-- 30 R102: a command presented while busy is held. -/
theorem test_busy_holds_command :
    (nextState (step (compressing .round 5 (one 0x6000#16)))).map (fun t => (t.inputs, t.rsp, t.RND)) =
    some (one 0x6000#16, none, 6) := by decide
/-- 10 R43, 70 R292: where the host lets a step pass, a busy engine takes its micro-step, and one that is not busy does nothing. -/
theorem test_idle_host :
    (nextState (step (compressing .round 5 [.idle, .reset]))).map (fun t => (t.inputs, t.RND)) = some ([.reset], 6) ∧
    nextState (step (absorbing 5 [.idle, .reset])) = some (absorbing 5 [.reset]) := by decide
/-- 95 V70: reset while busy, in ROUND with RND = 29; a response still pending is dropped (70 R290). -/
theorem test_reset_while_busy :
    (nextState (step { compressing .round 29 [.reset] with rsp := some 0x01#8, ERR := true, ECODE := .phase })).map
      (fun t => (t.PH, t.ERR, t.ECODE, t.status, t.rsp)) =
    some (.idle, false, .noError, 0x01#8, none) := by decide

/-! ### Micro-steps -/

/-- 95 V8: PAD after "abc" and FINAL. -/
theorem test_pad_abc :
    (nextState (step { padding 4 [] with LEN := 24 })).map
      (fun t => ((t.BUF[4], t.BUF[55], t.BUF[56], t.BUF[57], t.BUF[63]), (t.CNT, t.LENW, t.PH))) =
    some ((0x00#8, 0x00#8, 0x18#8, 0x00#8, 0x00#8), (64, true, .parse)) := by decide
/-- 95 V8, L = 56: the first PAD places no length, the second does. -/
theorem test_pad_two_blocks :
    ((nextState (step { padding 57 [] with LEN := 448 })).map (fun t => (t.BUF[56], t.BUF[57], t.LENW)),
     (nextState (step { padding 0 [] with LEN := 448 })).map (fun t => (t.BUF[55], t.BUF[56], t.BUF[57], t.BUF[58], t.LENW))) =
    (some (0x00#8, 0x00#8, false), some (0x00#8, 0xc0#8, 0x01#8, 0x00#8, true)) := by decide
/-- 95 V22: PARSE of the bytes 0x00 to 0x3f. -/
theorem test_parse_words :
    (nextState (step { compressing .parse 9 [] with
      A := 1, D := 4, BUF := Vector.ofFn fun j => BitVec.ofNat 8 j.val })).map
      (fun t => ((t.W[0], t.W[7], t.W[15]), (t.a, t.d, t.RND, t.PH))) =
    some ((0x03020100#32, 0x1f1e1d1c#32, 0x3f3e3d3c#32), (1, 4, 0, .round)) := by decide
/-- 95 V24, i = 0: every adder wraps. -/
theorem test_round_first :
    (nextState (step { compressing .round 0 [] with
      a := 0xffffffff#32, b := 0xffffffff#32, c := 0xffffffff#32, d := 0xffffffff#32,
      W := Vector.replicate 16 0xffffffff#32 })).map (fun t => (t.a, t.b, t.c, t.d, t.RND, t.PH)) =
    some (0xffffffff#32, 0xb5523aea#32, 0xffffffff#32, 0xffffffff#32, 1, .round) := by decide
/-- 95 V24, i = 63, with only W[9] set: the last round and its index. -/
theorem test_round_last :
    (nextState (step { compressing .round 63 [] with
      a := 0x01234567#32, b := 0x89abcdef#32, c := 0xfedcba98#32, d := 0x76543210#32,
      W := (Vector.replicate 16 0).set 9 0xdeadbeef#32 })).map (fun t => (t.a, t.b, t.c, t.d, t.RND, t.PH)) =
    some (0x76543210#32, 0x757427d8#32, 0x89abcdef#32, 0xfedcba98#32, 63, .accum) := by decide
/-- 95 V21, the accumulation of "abc", and V8's two-block case. -/
theorem test_accum :
    ((nextState (step { compressing .accum 63 [] with
        A := 0x67452301#32, a := 0x310ade8f#32, D := 0x10325476#32, d := 0x624d8cb2#32, FIN := true, LENW := true })).map
      (fun t => (t.A, t.D, t.CNT, t.PH)),
     (nextState (step { compressing .accum 63 [] with FIN := true })).map (fun t => t.PH),
     (nextState (step (compressing .accum 63 []))).map (fun t => t.PH)) =
    (some (0x98500190#32, 0x727fe128#32, 0, .done), some .pad, some .absorb) := by decide
/-- 95 V30, first row. -/
theorem test_logical_functions :
    (F0 0xffffffff#32 0x12345678#32 0x9abcdef0#32, F1 0xffffffff#32 0x12345678#32 0x9abcdef0#32,
      F2 0xffffffff#32 0x12345678#32 0x9abcdef0#32, F3 0xffffffff#32 0x12345678#32 0x9abcdef0#32) =
    (0x12345678#32, 0x9abcdef8#32, 0x77777777#32, 0xedcba987#32) := by decide
/-- 95 V31. -/
theorem test_rotator :
    (rotl 0x80000000#32 1, rotl 0x00000001#32 31, rotl 0xdeadbeef#32 23, rotl 0x12345678#32 0) =
    (0x00000001#32, 0x80000000#32, 0x77ef56df#32, 0x12345678#32) := by decide
/-- 95 V23. -/
theorem test_round_control :
    ([0, 15, 16, 31, 32, 47, 48, 63].map fun i => (fsel (BitVec.ofNat 6 i), gidx (BitVec.ofNat 6 i),
        shiftAmount (BitVec.ofNat 6 i), roundConst (BitVec.ofNat 6 i))) =
    [(0, 0, 7, 0xd76aa478#32), (0, 15, 22, 0x49b40821#32), (1, 1, 5, 0xf61e2562#32), (1, 12, 20, 0x8d2a4c8a#32),
     (2, 5, 4, 0xfffa3942#32), (2, 2, 23, 0xc4ac5665#32), (3, 0, 6, 0xf4292244#32), (3, 9, 21, 0xeb86d391#32)] := by decide

/-! ### Witnesses: the hypotheses of the obligations are met together -/

theorem codes_idle : (idleWith (one 0x1000#16)).CodesAssigned := ⟨by decide, by decide⟩
theorem codes_absorbing (cnt : BitVec 7) (l : List HostInput) : (absorbing cnt l).CodesAssigned := ⟨by simp [absorbing], by simp [absorbing, State.reset]⟩
theorem codes_finished (l : List HostInput) : (finished l).CodesAssigned := ⟨by simp [finished], by simp [finished, State.reset]⟩
theorem codes_padding (cnt : BitVec 7) (l : List HostInput) : (padding cnt l).CodesAssigned := ⟨by simp [padding], by simp [padding, State.reset]⟩

/-- Witness of AssemblerEmitsOnlyLegalWords: each range at its last operand and at the one after it. -/
theorem witness_assembler :
    (assemble (.push 255) = some 0x20ff#16 ∧ assemble (.push 256) = none) ∧
    (assemble (.rdbyte 15) = some 0x400f#16 ∧ assemble (.rdbyte 16) = none) ∧
    (assemble (.rdhex 31) = some 0x501f#16 ∧ assemble (.rdhex 32) = none) ∧
    (assemble (.word 65535) = some 0xffff#16 ∧ assemble (.word 65536) = none) := by decide
/-- Witness of AssemblerEmitsOnlyLegalWords for PUSH 'c' (95 P2: 'a' is 0x61), and of its last clause. -/
theorem witness_assembler_char :
    ((Char.ofNat 0x61).toNat = (0x61#8).toNat ∧ (Char.ofNat 0x61).toNat < 128 ∧
      assemble (.pushChar (Char.ofNat 0x61)) = some 0x2061#16) ∧
    (Char.ofNat 127).toNat = (127#8).toNat ∧ 128 ≤ (Char.ofNat 128).toNat ∧
    (∀ n, AsmLine.pushChar (Char.ofNat 0x61) ≠ .word n) := ⟨by decide, by decide, by decide, by simp⟩
/-- Witness of MalformedWordsAreTheListedOnes and DecodeMatchesOpcodeRows: words at the edges of the operand ranges. -/
theorem witness_decode_edges :
    decode 0x400f#16 = .command (.rdbyte 15#4) ∧ decode 0x4010#16 = .malformed .operandBits ∧
    decode 0x501f#16 = .command (.rdhex 31#5) ∧ decode 0x5020#16 = .malformed .operandBits := by decide
/-- Witness of RotatorMovesEveryBit: the largest amount and bit. -/
theorem witness_rotator : (rotl 0x80000000#32 31).getLsbD ((31 + 31) % 32) = (0x80000000#32).getLsbD 31 := by decide
/-- Witness of LogicalFunctionsBitwise: the last bit, both values of the selecting bit. -/
theorem witness_logical_functions :
    (F0 0x80000000#32 0x80000000#32 0).getLsbD 31 = true ∧ (F0 0 0x80000000#32 0).getLsbD 31 = false := by decide
/-- Witness of StatusBitsShowState: IDLE, a busy phase, and STATUS with each code of ECODE (10 R44; 95 V43). -/
theorem witness_status :
    State.reset.PH = .idle ∧ (compressing .round 0 []).busy = true ∧
    { State.reset with ERR := true, ECODE := .malformed }.status = 0x19#8 ∧
    { State.reset with ERR := true, ECODE := .phase }.status = 0x29#8 := by decide
/-- Witness of InitOpensMessage: the three phases that accept it, and a malformed word with its opcode. -/
theorem witness_init :
    ((idleWith (one 0x1000#16)).CodesAssigned ∧ (idleWith (one 0x1000#16)).Ready) ∧
    ((absorbing 63 []).CodesAssigned ∧ (absorbing 63 []).Ready) ∧ ((finished []).CodesAssigned ∧ (finished []).Ready) ∧
    (WellFormed.op 0x1fff#16 = 1 ∧ 0x1fff#16 ≠ 0x1000#16) :=
  ⟨⟨codes_idle, .inl rfl⟩, ⟨codes_absorbing _ _, .inr (.inl rfl)⟩, ⟨codes_finished _, .inr (.inr rfl)⟩, by decide⟩
/-- Witness of PushAppendsMessageByte and FinalStartsPadding: the first, a middle and the last place in the block. -/
theorem witness_push_final :
    ((absorbing 0 []).CNT.toNat < 64 ∧ (absorbing 0 []).CodesAssigned ∧ (absorbing 0 []).PH = .absorb) ∧
    ((absorbing 62 []).CNT.toNat < 64 ∧ (absorbing 62 []).CodesAssigned ∧ (absorbing 62 []).PH = .absorb) ∧
    ((absorbing 63 []).CNT.toNat < 64 ∧ (absorbing 63 []).CodesAssigned ∧ (absorbing 63 []).PH = .absorb) :=
  ⟨⟨by decide, codes_absorbing _ _, rfl⟩, ⟨by decide, codes_absorbing _ _, rfl⟩, ⟨by decide, codes_absorbing _ _, rfl⟩⟩
/-- Witness of RdbyteAnswersDigestByte and RdhexAnswersHexCharacter. -/
theorem witness_reads : (finished []).CodesAssigned ∧ (finished []).PH = .done := ⟨codes_finished _, rfl⟩
/-- Witness of RdstatAnswersStatus, also after an error. -/
theorem witness_rdstat :
    ((failed (finished [])).CodesAssigned ∧ (failed (finished [])).Ready) ∧
    ((absorbing 0 []).CodesAssigned ∧ (absorbing 0 []).Ready) :=
  ⟨⟨⟨by decide, by decide⟩, .inr (.inr rfl)⟩, codes_absorbing _ _, .inr (.inl rfl)⟩
/-- Witness of StepRunsDecodedCommand. -/
theorem witness_step_runs :
    (absorbing 5 (one 0x20ff#16)).accepts 0x20ff#16 [] ∧ decode 0x20ff#16 = .command (.push 0xff#8) :=
  ⟨⟨codes_absorbing _ _, .inr (.inl rfl), rfl⟩, by decide⟩
/-- Witness of LegalityTableDecidesExecution: permitted, not permitted, and busy. -/
theorem witness_legality :
    ((absorbing 63 (one 0x2000#16)).CodesAssigned ∧ ((absorbing 63 (one 0x2000#16)).PH = .absorb → (absorbing 63 (one 0x2000#16)).CNT.toNat < 64) ∧
      (absorbing 63 (one 0x2000#16)).inputs = .command (encode (.push 0)) :: [] ∧
      (absorbing 63 (one 0x2000#16)).Ready ∧ Permitted (.push 0) (absorbing 63 (one 0x2000#16)).PH) ∧
    ((finished (one 0x3000#16)).CodesAssigned ∧ ((finished (one 0x3000#16)).PH = .absorb → (finished (one 0x3000#16)).CNT.toNat < 64) ∧
      (finished (one 0x3000#16)).inputs = .command (encode .final) :: [] ∧
      (finished (one 0x3000#16)).Ready ∧ ¬ Permitted .final (finished (one 0x3000#16)).PH) ∧
    ((padding 0 (one 0x6000#16)).CodesAssigned ∧ ((padding 0 (one 0x6000#16)).PH = .absorb → (padding 0 (one 0x6000#16)).CNT.toNat < 64) ∧
      (padding 0 (one 0x6000#16)).inputs = .command (encode .rdstat) :: [] ∧ (padding 0 (one 0x6000#16)).busy = true) :=
  ⟨⟨codes_absorbing _ _, fun _ => by decide, rfl, .inr (.inl rfl), rfl⟩,
   ⟨codes_finished _, fun _ => by decide, rfl, .inr (.inr rfl), by simp [Permitted, finished]⟩,
   ⟨codes_padding _ _, fun _ => by decide, rfl, rfl⟩⟩
/-- Witness of CommandErrorDoesExactlyThis and of FaultLogKeepsEveryError: both causes, and both answers. -/
theorem witness_command_error :
    ((idleWith (one 0x4010#16)).accepts 0x4010#16 [] ∧ (∃ why, decode 0x4010#16 = .malformed why) ∧ AsksResponse 0x4010#16) ∧
    ((idleWith (one 0x2000#16)).accepts 0x2000#16 [] ∧
      (∃ i, decode 0x2000#16 = .command i ∧ ¬ Permitted i (idleWith (one 0x2000#16)).PH) ∧ ¬ AsksResponse 0x2000#16) :=
  ⟨⟨⟨⟨by decide, by decide⟩, .inl rfl, rfl⟩, ⟨.operandBits, by decide⟩, .inl (by decide)⟩,
   ⟨⟨⟨by decide, by decide⟩, .inl rfl, rfl⟩, ⟨.push 0, by decide, by simp [Permitted, idleWith, State.reset]⟩,
    by simp [AsksResponse, WellFormed.op]⟩⟩
/-- Witness of ExactlyOneAgentMoves: a busy engine with a word held, with nothing presented and with a step let pass, and an
engine that is not busy with nothing presented and with a step let pass. -/
theorem witness_one_agent :
    ((padding 56 (one 0x1000#16)).CodesAssigned ∧ (padding 56 (one 0x1000#16)).busy = true ∧
      NoReset (padding 56 (one 0x1000#16)).inputs ∧ HostWaits (padding 56 (one 0x1000#16)).inputs) ∧
    (NoReset (padding 56 []).inputs ∧ HostWaits (padding 56 []).inputs) ∧
    (NoReset (padding 56 [.idle, .reset]).inputs ∧ (padding 56 [.idle, .reset]).inputs = .idle :: [.reset]) ∧
    ((absorbing 0 []).CodesAssigned ∧ (absorbing 0 []).busy = false ∧ (absorbing 0 []).inputs = []) ∧
    ((absorbing 0 [.idle]).CodesAssigned ∧ (absorbing 0 [.idle]).busy = false ∧ (absorbing 0 [.idle]).inputs = .idle :: []) :=
  ⟨⟨codes_padding _ _, rfl, by decide, .inr ⟨_, _, rfl⟩⟩, ⟨by decide, .inl rfl⟩, ⟨by decide, rfl⟩,
   ⟨codes_absorbing _ _, rfl, rfl⟩, codes_absorbing _ _, rfl, rfl⟩
/-- Witness of OneResponsePerReadCommand: a read that executes, a command with no response, a read that is an error. -/
theorem witness_one_response :
    ((finished (one 0x4000#16)).accepts 0x4000#16 [] ∧ AsksResponse 0x4000#16 ∧
      ∃ t, step (finished (one 0x4000#16)) = .next t) ∧
    ((finished (one 0x1000#16)).accepts 0x1000#16 [] ∧ ¬ AsksResponse 0x1000#16 ∧
      ∃ t, step (finished (one 0x1000#16)) = .next t) ∧
    ((absorbing 0 (one 0x5000#16)).accepts 0x5000#16 [] ∧ AsksResponse 0x5000#16 ∧
      ∃ t, step (absorbing 0 (one 0x5000#16)) = .next t ∧ t.faultLog ≠ (absorbing 0 (one 0x5000#16)).faultLog) :=
  ⟨⟨⟨codes_finished _, .inr (.inr rfl), rfl⟩, .inl (by decide), _, rfl⟩,
   ⟨⟨codes_finished _, .inr (.inr rfl), rfl⟩, by simp [AsksResponse, WellFormed.op], _, rfl⟩,
   ⟨⟨codes_absorbing _ _, .inr (.inl rfl), rfl⟩, .inr (.inl (by decide)), _, rfl, by decide⟩⟩
/-- Witness of ReadsChangeNoRegister: a read that executes, and one that is an error. -/
theorem witness_reads_frame :
    (∃ t, exec (.rdbyte 15#4) (finished []) = .next t ∧ t.faultLog = (finished []).faultLog) ∧
    (∃ t, exec (.rdhex 31#5) (absorbing 0 []) = .next t ∧ t.faultLog ≠ (absorbing 0 []).faultLog) :=
  ⟨⟨_, rfl, by decide⟩, ⟨_, rfl, by decide⟩⟩

theorem inv_failed_idle (l : List HostInput) : (failed (idleWith l)).Inv := by
  constructor <;> simp [failed, idleWith, State.reset]

/-- Witness of OnlyInitAndResetClearErrors: the error stays, is cleared by INIT, is cleared by reset. -/
theorem witness_errors_cleared :
    ((failed (idleWith (one 0x3000#16))).Inv ∧ (failed (idleWith (one 0x3000#16))).ERR = true ∧
      ∃ t, step (failed (idleWith (one 0x3000#16))) = .next t ∧ t.ERR = true) ∧
    ((failed (idleWith (one 0x1000#16))).Inv ∧ (failed (idleWith (one 0x1000#16))).ERR = true ∧
      ∃ t, step (failed (idleWith (one 0x1000#16))) = .next t ∧ t.ERR = false) ∧
    ((failed (idleWith [.reset])).Inv ∧ (failed (idleWith [.reset])).ERR = true ∧
      ∃ t, step (failed (idleWith [.reset])) = .next t ∧ t.ERR = false) :=
  ⟨⟨inv_failed_idle _, rfl, _, rfl, by decide⟩, ⟨inv_failed_idle _, rfl, _, rfl, by decide⟩,
   ⟨inv_failed_idle _, rfl, _, rfl, by decide⟩⟩
/-- Witness of FaultLogKeepsEveryError: a step that logs, and a run through reset that keeps the log. -/
theorem witness_fault_log :
    (∃ t, step (idleWith (one 0x2061#16)) = .next t ∧ t.faultLog = [.phase]) ∧
    (∃ t, runFor 2 (idleWith [.command 0x2061#16, .reset]) = .next t ∧ t.faultLog = [.phase]) :=
  ⟨⟨_, rfl, by decide⟩, ⟨_, rfl, by decide⟩⟩
/-- Witness of PadCompletesBlock: CNT at 0, 56, 57 and 64; a word held, and a step let pass. -/
theorem witness_pad (cnt : BitVec 7) (_ : cnt ∈ [0#7, 56#7, 57#7, 64#7]) :
    ((padding cnt (one 0x6000#16)).CodesAssigned ∧ (padding cnt (one 0x6000#16)).PH = .pad ∧
      NoReset (padding cnt (one 0x6000#16)).inputs) ∧
    NoReset (padding cnt [.idle]).inputs ∧ heldStream (padding cnt [.idle]).inputs = [] :=
  ⟨⟨codes_padding _ _, rfl, by simp [NoReset, padding, one]⟩, by simp [NoReset, padding], rfl⟩
/-- The clauses of PadCompletesBlock meet between 56 and 57. -/
theorem witness_pad_clauses :
    (padding 56 []).CNT.toNat ≤ 56 ∧ 56 < (padding 57 []).CNT.toNat ∧ (padding 64 []).CNT.toNat = 64 := by decide
/-- Witness of ParseSplitsBlock and CompressionIsSourceCompression. -/
theorem witness_parse :
    (compressing .parse 0 []).CodesAssigned ∧ (compressing .parse 0 []).PH = .parse ∧
    NoReset (compressing .parse 0 []).inputs ∧ HostWaits (compressing .parse 0 []).inputs ∧
    NoReset (compressing .parse 0 [.idle]).inputs := ⟨⟨by decide, by decide⟩, rfl, by decide, .inl rfl, by decide⟩
/-- Witness of RoundUpdatesWorkingRegisters: the first and the last round of each group, and the last two of all. -/
theorem witness_round (i : BitVec 6) (_ : i ∈ [0#6, 15#6, 16#6, 31#6, 32#6, 47#6, 48#6, 62#6, 63#6]) :
    (compressing .round i []).CodesAssigned ∧ (compressing .round i []).PH = .round ∧
    NoReset (compressing .round i []).inputs ∧ NoReset (compressing .round i [.idle]).inputs ∧
    (compressing .round i []).RND = i :=
  ⟨⟨by simp [compressing], by simp [compressing, State.reset]⟩, rfl, by simp [NoReset, compressing],
   by simp [NoReset, compressing], rfl⟩
/-- Witness of AccumFoldsCompression. -/
theorem witness_accum :
    (compressing .accum 63 []).CodesAssigned ∧ (compressing .accum 63 []).PH = .accum ∧
    NoReset (compressing .accum 63 []).inputs ∧ NoReset (compressing .accum 63 [.idle]).inputs :=
  ⟨⟨by decide, by decide⟩, rfl, by decide, by decide⟩
/-- Witness of NextPhaseDependsOnSequencerAlone: two states with different data, and a step that stays in ROUND. -/
theorem witness_next_phase :
    (compressing .round 7 []).busy = true ∧ NoReset (compressing .round 7 []).inputs ∧
    NoReset { compressing .round 7 (one 0x1000#16) with b := 5, ERR := true, ECODE := .phase }.inputs ∧
    (∃ t, step (compressing .round 7 []) = .next t ∧ t.PH = .round) ∧
    (∃ t, step { compressing .round 7 (one 0x1000#16) with b := 5, ERR := true, ECODE := .phase } = .next t) :=
  ⟨rfl, by decide, by decide, ⟨_, rfl, rfl⟩, ⟨_, rfl⟩⟩
/-- Witness of DatapathRegistersHaveTheirWriters: a step that writes each of them. -/
theorem witness_datapath_writers :
    (∃ t, step (idleWith (one 0x1000#16)) = .next t ∧ t.chain ≠ (idleWith (one 0x1000#16)).chain) ∧
    (∃ t, step { compressing .parse 0 [] with A := 1, BUF := Vector.replicate 64 7 } = .next t ∧ t.work ≠ ⟨0, 0, 0, 0⟩ ∧
      t.W[0] ≠ 0) ∧
    (∃ t, step (absorbing 63 (one 0x20ff#16)) = .next t ∧ t.BUF[63] ≠ (absorbing 63 (one 0x20ff#16)).BUF[63]) :=
  ⟨⟨_, rfl, by decide⟩, ⟨_, rfl, by decide, by decide⟩, ⟨_, rfl, by decide⟩⟩
/-- Witness of CountersAndFlagsHaveTheirWriters: steps that set and clear FIN and LENW, and count. -/
theorem witness_counter_writers :
    (∃ t, step (absorbing 0 (one 0x3000#16)) = .next t ∧ (absorbing 0 (one 0x3000#16)).FIN = false ∧ t.FIN = true ∧
      t.CNT ≠ (absorbing 0 (one 0x3000#16)).CNT) ∧
    (∃ t, step (padding 56 []) = .next t ∧ (padding 56 []).LENW = false ∧ t.LENW = true) ∧
    (∃ t, step (finished (one 0x1000#16)) = .next t ∧ (finished (one 0x1000#16)).FIN = true ∧ t.FIN = false ∧
      (finished (one 0x1000#16)).LENW = true ∧ t.LENW = false) ∧
    (∃ t, step (absorbing 0 (one 0x2000#16)) = .next t ∧ t.LEN ≠ (absorbing 0 (one 0x2000#16)).LEN) ∧
    (∃ t, step (compressing .round 7 []) = .next t ∧ t.RND ≠ (compressing .round 7 []).RND) :=
  ⟨⟨_, rfl, rfl, rfl, by decide⟩, ⟨_, rfl, rfl, by decide⟩, ⟨_, rfl, rfl, rfl, rfl, rfl⟩, ⟨_, rfl, by decide⟩,
   ⟨_, rfl, by decide⟩⟩
/-- Witness of ResetIsTakenInEveryState: a busy state. -/
theorem witness_reset : (compressing .round 29 [.reset, .command 0x5000#16]).inputs = .reset :: one 0x5000#16 := rfl

theorem inv_absorbing_63 (l : List HostInput) : (absorbing 63 l).Inv := by
  constructor <;> simp [absorbing, State.reset]
theorem inv_absorbing_55 (l : List HostInput) : (absorbing 55 l).Inv := by
  constructor <;> simp [absorbing, State.reset]
theorem inv_absorbing_56 (l : List HostInput) : (absorbing 56 l).Inv := by
  constructor <;> simp [absorbing, State.reset]
theorem inv_finished (l : List HostInput) : (finished l).Inv := by
  constructor <;> simp [finished, State.reset]
theorem inv_padding_64 (l : List HostInput) : (padding 64 l).Inv := by
  constructor <;> simp [padding, State.reset]

/-- Witness of EveryStepKeepsReachableStateRules: the last PUSH of a block, a PAD with a full buffer, INIT after a digest. -/
theorem witness_invariant_steps :
    ((absorbing 63 (one 0x2000#16)).Inv ∧ ∃ t, step (absorbing 63 (one 0x2000#16)) = .next t) ∧
    ((padding 64 []).Inv ∧ ∃ t, step (padding 64 []) = .next t) ∧
    ((finished (one 0x1000#16)).Inv ∧ ∃ t, step (finished (one 0x1000#16)) = .next t) :=
  ⟨⟨inv_absorbing_63 _, _, rfl⟩, ⟨inv_padding_64 _, _, rfl⟩, ⟨inv_finished _, _, rfl⟩⟩
/-- Witness of EveryStepKeepsReachableStateRules, its second clause: ACCUM enters PAD with CNT = 0. -/
theorem witness_pad_after_accum :
    { compressing .accum 63 [] with FIN := true }.Inv ∧
    ∃ t, step { compressing .accum 63 [] with FIN := true } = .next t ∧ t.PH = .pad ∧ t.CNT = 0 :=
  ⟨by constructor <;> simp [compressing, State.reset], _, rfl, rfl, rfl⟩
/-- Witness of NoStepStopsFromReachableStates. -/
theorem witness_inv : (absorbing 63 []).Inv ∧ (padding 64 []).Inv ∧ (finished []).Inv ∧ (failed (idleWith [])).Inv :=
  ⟨inv_absorbing_63 _, inv_padding_64 _, inv_finished _, inv_failed_idle _⟩
/-- Witness of UnspecifiedValuesAreNeverRead: after reset, two states that differ in every datapath register. -/
theorem witness_agree :
    (failed (idleWith [])).Inv ∧
    Agree (failed (idleWith []))
      { failed (idleWith []) with
        A := 1, B := 2, C := 3, D := 4, a := 5, b := 6, c := 7, d := 8, W := Vector.replicate 16 9,
        BUF := Vector.replicate 64 10, CNT := 127, LEN := 11, RND := 12 } :=
  ⟨inv_failed_idle _, by constructor <;> simp [failed, idleWith, State.reset]⟩
/-- Witness of UnspecifiedValuesAreNeverRead in a busy phase: W, RND and a..d differ in PARSE. -/
theorem witness_agree_parse :
    Agree (compressing .parse 0 [])
      { compressing .parse 63 [] with a := 5, W := Vector.replicate 16 9 } := by
  constructor <;> simp [compressing, State.reset, State.chain]
/-- Witness of BusyPeriodsAreBounded: CNT at 63, 55 and 56, and the commands run. -/
theorem witness_busy_periods :
    ((absorbing 63 []).Inv ∧ (absorbing 63 []).PH = .absorb ∧ HostWaits (absorbing 63 []).inputs ∧
      (absorbing 63 []).CNT.toNat = 63 ∧ ∃ t, exec (.push 0) (absorbing 63 []) = .next t) ∧
    ((absorbing 55 []).Inv ∧ (absorbing 55 []).CNT.toNat ≤ 55 ∧ ∃ t, exec .final (absorbing 55 []) = .next t) ∧
    ((absorbing 56 []).Inv ∧ ¬ (absorbing 56 []).CNT.toNat ≤ 55 ∧ ∃ t, exec .final (absorbing 56 []) = .next t) :=
  ⟨⟨inv_absorbing_63 _, rfl, .inl rfl, rfl, _, rfl⟩, ⟨inv_absorbing_55 _, by decide, _, rfl⟩,
   ⟨inv_absorbing_56 _, by decide, _, rfl⟩⟩
/-- Witness of PushedBytesAreCountedAndCompressed: a PUSH and two reads, one of them an error. -/
theorem witness_pushed_bytes :
    (idleWith (commandStream [.init, .push 1, .rdstat, .rdbyte 0] ++ [])).CodesAssigned ∧
    (idleWith (commandStream [.init, .push 1, .rdstat, .rdbyte 0] ++ [])).Ready ∧
    (∀ i ∈ [Instr.push 1, .rdstat, .rdbyte 0], i ≠ .init ∧ i ≠ .final) ∧ HostWaits [] ∧
    pushedBytes [.push 1, .rdstat, .rdbyte 0] = [1] :=
  ⟨⟨by simp [idleWith, State.reset], by simp [idleWith, State.reset]⟩, .inl rfl, by simp, .inl rfl, by decide⟩
/-- Witness of ParsedBlocksArePaddedMessage and HashCommandsAnswerDigest: the message "a" after a digest. -/
theorem witness_hash :
    (finished (commandStream ([.init] ++ [0x61#8].map .push ++ [.final]) ++ one 0x1000#16)).CodesAssigned ∧
    (finished (commandStream (Pseudo.hash [0x61#8]).expand ++ [])).Ready ∧ HostWaits (one 0x1000#16) ∧
    ((Pseudo.hash [0x61#8]).expand).length = 35 :=
  ⟨codes_finished _, .inr (.inr rfl), .inr ⟨_, _, rfl⟩, by decide⟩
/-- Witness of PaddedMessageIsWholeBlocks: the number of zeros where one block becomes two (41 R164). -/
theorem witness_padding_lengths :
    (Algorithm.zeros 0, Algorithm.zeros 55, Algorithm.zeros 56, Algorithm.zeros 63, Algorithm.zeros 64) = (55, 0, 63, 56, 55) :=
  by decide
/-- Witness of EndedRunStaysAsItIs: a response is still on the channel. -/
theorem witness_ended_run :
    { finished [] with rsp := some 0x72#8 }.CodesAssigned ∧ { finished [] with rsp := some 0x72#8 }.runEnded :=
  ⟨⟨by decide, by decide⟩, rfl, rfl⟩
/-- Witness of BufferIndexOutOfRangeFaults: CNT at 64 and 127. -/
theorem witness_buffer_index :
    ((absorbing 64 []).CodesAssigned ∧ (absorbing 64 []).PH = .absorb ∧ 64 ≤ (absorbing 64 []).CNT.toNat) ∧
    ((absorbing 127 []).CodesAssigned ∧ (absorbing 127 []).PH = .absorb ∧ 64 ≤ (absorbing 127 []).CNT.toNat) :=
  ⟨⟨codes_absorbing _ _, rfl, by decide⟩, ⟨codes_absorbing _ _, rfl, by decide⟩⟩
/-- Witness of ReservedCodesAreRefused: both codes. -/
theorem witness_reserved_codes :
    ¬ (compressing .code7 0 (one 0x1000#16)).CodesAssigned ∧
    (compressing .code7 0 (one 0x1000#16)).inputs.head? ≠ some .reset ∧
    ¬ { idleWith (one 0x1000#16) with ECODE := .code3 }.CodesAssigned ∧
    { idleWith (one 0x1000#16) with ECODE := .code3 }.inputs.head? ≠ some .reset :=
  ⟨fun h => h.ph rfl, by decide, fun h => h.ecode rfl, by decide⟩

end Sys2Proof.Tests
end

section
/-! PROOF. Byte order (00 R11): the value of a concatenation, of `le32` and of `byte(x, k)`, and O6 from them. -/

namespace Sys2Proof.Machine

/-- Appending a byte on the right shifts the value left by one byte. -/
theorem toNat_append_byte {n : Nat} (x : BitVec n) (y : Byte) : (x ++ y).toNat = 2 ^ 8 * x.toNat + y.toNat := by
  rw [BitVec.toNat_append, ← Nat.shiftLeft_add_eq_or_of_lt y.isLt, Nat.shiftLeft_eq, Nat.mul_comm]

@[simp] theorem toNat_byteOf {n : Nat} (x : BitVec n) (k : Nat) : (byteOf x k).toNat = x.toNat / 2 ^ (8 * k) % 256 := by
  rw [byteOf, BitVec.extractLsb'_toNat, Nat.shiftRight_eq_div_pow]

@[simp] theorem toNat_le32 (b0 b1 b2 b3 : Byte) :
    (le32 b0 b1 b2 b3).toNat = b0.toNat + 2 ^ 8 * b1.toNat + 2 ^ 16 * b2.toNat + 2 ^ 24 * b3.toNat := by
  rw [le32, toNat_append_byte, toNat_append_byte, toNat_append_byte]
  omega

/-- Byte `k` of a little-endian word is the `k`-th of the four bytes it was made of. -/
theorem byteOf_le32 (b : Vector Byte 4) (k : Fin 4) : byteOf (le32 b[0] b[1] b[2] b[3]) k = b[k] := by
  apply BitVec.eq_of_toNat_eq
  rw [toNat_byteOf, toNat_le32]
  have h0 := b[0].isLt
  have h1 := b[1].isLt
  have h2 := b[2].isLt
  match k with
  | 0 | 1 | 2 | 3 => simp; omega

/-- Settles O6: the byte positions follow from the value of `le32` in base 256. -/
theorem littleEndianWordsAndBytes : Obligations.LittleEndianWordsAndBytes := by
  refine ⟨toNat_append_byte, fun _ _ _ _ => rfl, fun b0 b1 b2 b3 => ⟨toNat_le32 b0 b1 b2 b3, ?_⟩, toNat_byteOf⟩
  have hbyte := byteOf_le32 #v[b0, b1, b2, b3]
  exact ⟨hbyte 0, hbyte 1, hbyte 2, hbyte 3⟩

end Sys2Proof.Machine
end

section
/-! PROOF. All that one step can do, said once: the statements about steps go by cases on `Transition`. -/

namespace Sys2Proof.Machine

/-! ### The word of a decoded command -/

/-- A command word is its three fields, one after the other (30 R100). -/
theorem fields_append (w : CmdWord) : opField w ++ (rsvField w ++ opdField w) = w := by
  rw [rsvField, opdField, BitVec.extractLsb'_append_extractLsb'_eq_extractLsb' (by rfl), opField,
    BitVec.extractLsb'_append_extractLsb'_eq_extractLsb' (by rfl), BitVec.extractLsb'_eq_self]

theorem push_fields (x : BitVec 8) : 2#4 ++ (0#4 ++ x) = encode (.push x) := by
  revert x; decide

theorem rdbyte_fields (x : BitVec 8) (h : x.extractLsb' 4 4 = 0#4) :
    4#4 ++ (0#4 ++ x) = encode (.rdbyte (x.extractLsb' 0 4)) := by
  revert x; decide

theorem rdhex_fields (x : BitVec 8) (h : x.extractLsb' 5 3 = 0#3) :
    5#4 ++ (0#4 ++ x) = encode (.rdhex (x.extractLsb' 0 5)) := by
  revert x; decide

/-- The only word that decodes to a command is the word the encoder gives it (30 R105, R106). -/
theorem eq_encode_of_decode {w : CmdWord} {i : Instr} (h : decode w = .command i) : w = encode i := by
  have of_op : ∀ {n : Nat}, (opField w).toNat = n → opField w = BitVec.ofNat 4 n := by
    rintro _ rfl
    simp
  rw [← fields_append w]
  simp only [decode] at h
  split at h
  · cases h
  next hrsv =>
  rw [Decidable.not_not.mp hrsv]
  split at h
  case h_1 hop | h_3 hop | h_6 hop =>
    split at h
    · next hopd => cases h; rw [of_op hop, hopd]; rfl
    · cases h
  case h_2 hop => cases h; rw [of_op hop]; exact push_fields _
  case h_4 hop =>
    split at h
    · next hk => cases h; rw [of_op hop]; exact rdbyte_fields _ hk
    · cases h
  case h_5 hop =>
    split at h
    · next hk => cases h; rw [of_op hop]; exact rdhex_fields _ hk
    · cases h
  case h_7 => cases h

/-! ### One step -/

/-- Every way a step goes on from `s`, with what the step has checked and the state it gives (10 R41 to R43, 60 R260 to
R262, 70 R290). -/
inductive Transition (s : State) : State → Prop where
  | reset (rest : List HostInput) (hi : s.inputs = .reset :: rest) : Transition s (applyReset (s.setInputs rest))
  | pad (l : List HostInput) (hc : s.CodesAssigned) (hph : s.PH = .pad) :
      Transition s (microPad (s.deliver.setInputs l))
  | parse (l : List HostInput) (hc : s.CodesAssigned) (hph : s.PH = .parse) :
      Transition s (microParse (s.deliver.setInputs l))
  | round (l : List HostInput) (hc : s.CodesAssigned) (hph : s.PH = .round) :
      Transition s (microRound (s.deliver.setInputs l))
  | accum (l : List HostInput) (hc : s.CodesAssigned) (hph : s.PH = .accum) :
      Transition s (microAccum (s.deliver.setInputs l))
  | malformed (w : CmdWord) (rest : List HostInput) (ha : s.accepts w rest) (why : MalformedReason)
      (hd : decode w = .malformed why) : Transition s (raiseCmdError w .malformed (s.deliver.setInputs rest))
  | phaseError (i : Instr) (rest : List HostInput) (ha : s.accepts (encode i) rest) (hp : ¬ Permitted i s.PH) :
      Transition s (raiseCmdError (encode i) .phase (s.deliver.setInputs rest))
  | init (rest : List HostInput) (ha : s.accepts (encode .init) rest) :
      Transition s { (s.deliver.setInputs rest).setChain iv with
        CNT := 0, LEN := 0, FIN := false, LENW := false, ERR := false, ECODE := .noError, PH := .absorb }
  | push (b : Byte) (rest : List HostInput) (ha : s.accepts (encode (.push b)) rest) (hph : s.PH = .absorb)
      (hlt : s.CNT.toNat < 64) :
      Transition s { s.deliver.setInputs rest with
        BUF := s.BUF.set s.CNT.toNat b hlt, CNT := s.CNT + 1, LEN := s.LEN + 8,
        PH := phaseAfterPush (s.CNT + 1) .absorb }
  | final (rest : List HostInput) (ha : s.accepts (encode .final) rest) (hph : s.PH = .absorb)
      (hlt : s.CNT.toNat < 64) :
      Transition s { s.deliver.setInputs rest with
        BUF := s.BUF.set s.CNT.toNat 0x80 hlt, CNT := s.CNT + 1, FIN := true, PH := .pad }
  | rdbyte (k : BitVec 4) (rest : List HostInput) (ha : s.accepts (encode (.rdbyte k)) rest) (hph : s.PH = .done) :
      Transition s ((s.deliver.setInputs rest).respond (digestByte s.chain k.toNat))
  | rdhex (k : BitVec 5) (rest : List HostInput) (ha : s.accepts (encode (.rdhex k)) rest) (hph : s.PH = .done) :
      Transition s ((s.deliver.setInputs rest).respond (hexChar s.chain k.toNat))
  | rdstat (rest : List HostInput) (ha : s.accepts (encode .rdstat) rest) :
      Transition s ((s.deliver.setInputs rest).respond s.status)
  | pass (l : List HostInput) (hc : s.CodesAssigned) (hr : s.Ready) (hi : ∀ w rest, s.inputs ≠ .command w :: rest) :
      Transition s (s.deliver.setInputs l)

/-- A busy engine's micro-step is the one PH names. -/
theorem Transition.of_microStep {s : State} (hc : s.CodesAssigned) (hb : s.busy = true) (l : List HostInput) :
    Transition s (microStep (s.deliver.setInputs l)) := by
  rcases busy_eq_true.mp hb with hph | hph | hph | hph
  · rw [microStep_pad (s := s.deliver.setInputs l) hph]
    exact .pad l hc hph
  · rw [microStep_parse (s := s.deliver.setInputs l) hph]
    exact .parse l hc hph
  · rw [microStep_round (s := s.deliver.setInputs l) hph]
    exact .round l hc hph
  · rw [microStep_accum (s := s.deliver.setInputs l) hph]
    exact .accum l hc hph

/-- The effect of an accepted command that its phase permits. -/
theorem Transition.of_effect {s t : State} {i : Instr} {rest : List HostInput} (ha : s.accepts (encode i) rest)
    (hp : Permitted i s.PH) (he : effectOf i (s.deliver.setInputs rest) = .next t) : Transition s t := by
  cases i with
  | init => cases he; exact .init rest ha
  | push b =>
    obtain ⟨hlt, rfl⟩ := pushEffect_cases he
    have hph : s.PH = .absorb := hp
    simpa [hph] using Transition.push b rest ha hph hlt
  | final =>
    obtain ⟨hlt, rfl⟩ := finalEffect_cases he
    exact .final rest ha hp hlt
  | rdbyte k => cases he; exact .rdbyte k rest ha hp
  | rdhex k => cases he; exact .rdhex k rest ha hp
  | rdstat => cases he; exact .rdstat rest ha

/-- An accepted word is a command error of one of the two causes, or has its command's effect. -/
theorem Transition.of_accept {s t : State} {w : CmdWord} {rest : List HostInput} (ha : s.accepts w rest)
    (ht : acceptWord w (s.deliver.setInputs rest) = .next t) : Transition s t := by
  obtain ⟨why, hd, rfl⟩ | ⟨i, hd, he⟩ := acceptWord_cases ht
  · exact .malformed w rest ha why hd
  · obtain rfl := eq_encode_of_decode hd
    obtain ⟨-, ⟨hb, -⟩ | ⟨-, hp, rfl⟩ | ⟨-, hp, he⟩⟩ := exec_cases he
    · obtain ⟨-, hr, -⟩ := ha
      exact absurd (busy_eq_false_of_ready hr) (by simpa [State.busy] using hb)
    · exact .phaseError i rest ha hp
    · exact .of_effect ha hp he

theorem transition_of_step {s t : State} (h : step s = .next t) : Transition s t := by
  obtain ⟨rest, hi, rfl⟩ | ⟨hc, -, ⟨hb, l, rfl⟩ | ⟨hb, w, rest, hi, ht⟩ | ⟨hb, l, hi, rfl⟩⟩ := step_cases h
  · exact .reset rest hi
  · exact .of_microStep hc hb l
  · exact .of_accept ⟨hc, ready_of_not_busy hc hb, hi⟩ ht
  · exact .pass l hc (ready_of_not_busy hc hb) hi

end Sys2Proof.Machine
end

section
/-! PROOF. The invariants of the reachable states (10 R49): what each phase asks for, and that every transition keeps
it. -/

namespace Sys2Proof.Machine

/-! ### The sequencer's choices -/

theorem phaseAfterPush_absorb_cases (cnt : BitVec 7) :
    (cnt = 64#7 ∧ phaseAfterPush cnt .absorb = .parse) ∨ (cnt ≠ 64#7 ∧ phaseAfterPush cnt .absorb = .absorb) := by
  by_cases h : cnt = 64#7
  · exact .inl ⟨h, if_pos h⟩
  · exact .inr ⟨h, if_neg h⟩

theorem phaseAfterRound_round_cases (i : BitVec 6) :
    phaseAfterRound i .round = .accum ∨ phaseAfterRound i .round = .round := by
  by_cases h : i = 63#6
  · exact .inl (if_pos h)
  · exact .inr (if_neg h)

/-- Appending a byte to a buffer with room does not wrap CNT. -/
theorem toNat_cnt_add_one {cnt : BitVec 7} (h : cnt.toNat < 64) : (cnt + 1).toNat = cnt.toNat + 1 := by
  bv_omega

/-! ### What the invariants ask of a phase -/

/-- The values reset specifies (10 R50) meet the invariants, whatever the registers it leaves open hold. -/
theorem Inv_of_reset_values {s : State} (hph : s.PH = .idle) (hfin : s.FIN = false) (hlenw : s.LENW = false)
    (herr : s.ERR = false) (hecode : s.ECODE = .noError) : s.Inv := by
  constructor <;> simp [hph, hfin, hlenw, herr, hecode]

/-- The error record keeps ERR and ECODE together, without the reserved code (10 R44). -/
def ErrorRecorded (code : ECode) (err : Bool) : Prop := (code = .noError ↔ err = false) ∧ code ≠ .code3

theorem Inv_errorRecorded {s : State} (h : s.Inv) : ErrorRecorded s.ECODE s.ERR := ⟨h.ecode_err, h.ecode_ne_code3⟩

section
variable {s : State} (he : ErrorRecorded s.ECODE s.ERR)
include he

theorem Inv_of_absorb (hph : s.PH = .absorb) (hcnt : s.CNT.toNat ≤ 63) (hfin : s.FIN = false) (hlenw : s.LENW = false) :
    s.Inv := by
  obtain ⟨herr, hcode⟩ := he
  constructor <;> simp [hph, hcnt, hfin, hlenw, herr, hcode]

theorem Inv_of_pad (hph : s.PH = .pad) (hcnt : s.CNT.toNat ≤ 64) (hfin : s.FIN = true) (hlenw : s.LENW = false) :
    s.Inv := by
  obtain ⟨herr, hcode⟩ := he
  constructor <;> simp [hph, hcnt, hfin, hlenw, herr, hcode]

theorem Inv_of_compressing (hph : s.PH = .parse ∨ s.PH = .round ∨ s.PH = .accum) (hcnt : s.CNT = 64)
    (hlf : s.LENW = true → s.FIN = true) : s.Inv := by
  obtain ⟨herr, hcode⟩ := he
  have hrnd : s.RND.toNat ≤ 63 := Nat.le_of_lt_succ s.RND.isLt
  constructor
  case lenw_fin => exact hlf
  all_goals rcases hph with hph | hph | hph <;> simp [hph, hcnt, hrnd, herr, hcode]

theorem Inv_of_done (hph : s.PH = .done) (hcnt : s.CNT = 0) (hfin : s.FIN = true) (hlenw : s.LENW = true) : s.Inv := by
  obtain ⟨herr, hcode⟩ := he
  constructor <;> simp [hph, hcnt, hfin, hlenw, herr, hcode]

/-- A state with the sequencer registers of one that meets the invariants. -/
theorem Inv_of_same_sequencer {r : State} (hr : r.Inv) (hph : s.PH = r.PH) (hcnt : s.CNT = r.CNT)
    (hfin : s.FIN = r.FIN) (hlenw : s.LENW = r.LENW) : s.Inv where
  ph_ne_code7 := hph ▸ hr.ph_ne_code7
  idle := by rw [hph, hfin, hlenw]; exact hr.idle
  absorb := by rw [hph, hcnt, hfin, hlenw]; exact hr.absorb
  pad := by rw [hph, hcnt, hfin, hlenw]; exact hr.pad
  compressing := by rw [hph, hcnt]; exact hr.compressing
  rnd := fun _ => Nat.le_of_lt_succ s.RND.isLt
  done := by rw [hph, hcnt, hfin, hlenw]; exact hr.done
  lenw_fin := by rw [hfin, hlenw]; exact hr.lenw_fin
  ecode_err := he.1
  ecode_ne_code3 := he.2

end

/-! ### Every transition keeps the invariants -/

theorem errorRecorded_firstCause {code : ECode} (h : code ≠ .code3) (e : CmdError) :
    ErrorRecorded (firstCause code e) true :=
  ⟨by simp [firstCause_ne_noError], firstCause_ne_code3 h⟩

theorem Inv_raiseCmdError {s : State} (hs : s.Inv) (w : CmdWord) (e : CmdError) : (raiseCmdError w e s).Inv :=
  Inv_of_same_sequencer (errorRecorded_firstCause hs.ecode_ne_code3 e) hs rfl rfl rfl rfl

theorem Inv_setInputs_deliver {s : State} (hs : s.Inv) (l : List HostInput) : (s.deliver.setInputs l).Inv :=
  have he := Inv_errorRecorded hs
  Inv_of_same_sequencer he hs rfl rfl rfl rfl

theorem Inv_microPad {s : State} (hs : s.Inv) (hph : s.PH = .pad) : (microPad s).Inv := by
  obtain ⟨hfin, -, -⟩ := hs.pad hph
  have he : ErrorRecorded (microPad s).ECODE (microPad s).ERR := by simpa using Inv_errorRecorded hs
  exact Inv_of_compressing he (.inl (by simp)) (by simp) (by simp [hfin])

theorem Inv_microParse {s : State} (hs : s.Inv) (hph : s.PH = .parse) : (microParse s).Inv := by
  have he : ErrorRecorded (microParse s).ECODE (microParse s).ERR := by simpa using Inv_errorRecorded hs
  exact Inv_of_compressing he (.inr (.inl (by simp))) (by simpa using hs.compressing (.inl hph))
    (by simpa using hs.lenw_fin)

theorem Inv_microRound {s : State} (hs : s.Inv) (hph : s.PH = .round) : (microRound s).Inv := by
  have he : ErrorRecorded (microRound s).ECODE (microRound s).ERR := by simpa using Inv_errorRecorded hs
  refine Inv_of_compressing he (.inr ?_) (by simpa using hs.compressing (.inr (.inl hph)))
    (by simpa using hs.lenw_fin)
  rw [microRound_PH, hph]
  exact (phaseAfterRound_round_cases s.RND).symm

theorem Inv_microAccum {s : State} (hs : s.Inv) : (microAccum s).Inv := by
  have he : ErrorRecorded (microAccum s).ECODE (microAccum s).ERR := by simpa using Inv_errorRecorded hs
  cases hfin : s.FIN with
  | false =>
    have hlenw : s.LENW = false := by simpa [hfin] using hs.lenw_fin
    exact Inv_of_absorb he (by simp [hfin, phaseAfterAccum]) (by simp) (by simpa) (by simpa)
  | true =>
    cases hlenw : s.LENW with
    | false => exact Inv_of_pad he (by simp [hfin, hlenw, phaseAfterAccum]) (by simp) (by simpa) (by simpa)
    | true => exact Inv_of_done he (by simp [hfin, hlenw, phaseAfterAccum]) (by simp) (by simpa) (by simpa)

/-- Every transition keeps the invariants of the reachable states. -/
theorem Transition.inv {s t : State} (h : Transition s t) (hs : s.Inv) : t.Inv := by
  have he := Inv_errorRecorded hs
  cases h with
  | reset => exact Inv_of_reset_values rfl rfl rfl rfl rfl
  | pad l _ hph => exact Inv_microPad (Inv_setInputs_deliver hs l) hph
  | parse l _ hph => exact Inv_microParse (Inv_setInputs_deliver hs l) hph
  | round l _ hph => exact Inv_microRound (Inv_setInputs_deliver hs l) hph
  | accum l => exact Inv_microAccum (Inv_setInputs_deliver hs l)
  | malformed w rest => exact Inv_raiseCmdError (Inv_setInputs_deliver hs rest) w _
  | phaseError i rest => exact Inv_raiseCmdError (Inv_setInputs_deliver hs rest) (encode i) _
  | init => exact Inv_of_absorb ⟨by simp, by simp⟩ rfl (Nat.zero_le _) rfl rfl
  | push b rest _ hph hlt =>
    obtain ⟨-, hfin, hlenw⟩ := hs.absorb hph
    obtain ⟨h64, hph'⟩ | ⟨h64, hph'⟩ := phaseAfterPush_absorb_cases (s.CNT + 1)
    · exact Inv_of_compressing he (.inl hph') h64 hs.lenw_fin
    · have hle : (s.CNT + 1).toNat ≤ 63 := by
        have := toNat_cnt_add_one hlt
        have : (s.CNT + 1).toNat ≠ 64 := fun h => h64 (BitVec.eq_of_toNat_eq h)
        omega
      exact Inv_of_absorb he hph' hle hfin hlenw
  | final rest _ hph hlt =>
    obtain ⟨-, -, hlenw⟩ := hs.absorb hph
    exact Inv_of_pad he rfl ((toNat_cnt_add_one hlt).trans_le hlt) rfl hlenw
  | rdbyte | rdhex | rdstat | pass => exact Inv_of_same_sequencer he hs rfl rfl rfl rfl

theorem ph_ne_pad_of_ready {s : State} (h : s.Ready) : s.PH ≠ .pad := by
  rcases h with h | h | h <;> simp [h]

/-- Only ACCUM goes to PAD with an empty buffer: FINAL, the other way in, has just appended a byte. -/
theorem Transition.accum_of_pad_empty {s t : State} (h : Transition s t) (hpad : t.PH = .pad) (hcnt : t.CNT = 0) :
    s.PH = .accum := by
  cases h with
  | accum _ _ hph => exact hph
  | final _ _ _ hlt =>
    have h0 : (s.CNT + 1).toNat = 0 := congrArg BitVec.toNat hcnt
    rw [toNat_cnt_add_one hlt] at h0
    cases h0
  | reset | pad | parse | init => simp at hpad
  | round _ _ hph =>
    rw [microRound_PH] at hpad
    rcases phaseAfterRound_round_cases s.RND with h | h <;> simp [hph, h] at hpad
  | push =>
    rcases phaseAfterPush_absorb_cases (s.CNT + 1) with ⟨-, h⟩ | ⟨-, h⟩ <;>
    · rw [h] at hpad
      cases hpad
  | malformed _ _ ha | phaseError _ _ ha | rdbyte _ _ ha | rdhex _ _ ha | rdstat _ ha =>
    obtain ⟨-, hr, -⟩ := ha
    exact absurd hpad (ph_ne_pad_of_ready hr)
  | pass _ _ hr => exact absurd hpad (ph_ne_pad_of_ready hr)

/-- Settles O37: a step is a transition, and every transition keeps the invariants. -/
theorem everyStepKeepsReachableStateRules : Obligations.EveryStepKeepsReachableStateRules := by
  intro s t hs h
  have htr := transition_of_step h
  exact ⟨htr.inv hs, htr.accum_of_pad_empty⟩

/-- Settles O36: the reset state holds the values 10 R50 specifies. -/
theorem resetMeetsReachableStateRules : Obligations.ResetMeetsReachableStateRules :=
  Inv_of_reset_values rfl rfl rfl rfl rfl

end Sys2Proof.Machine
end

section
/-! PROOF. Who moves at a step, what the next phase depends on, and who may write each register (10 R31 to R43). -/

namespace Sys2Proof.Machine

/-! ### The micro-step and the sequencer -/

/-- Every micro-step of a busy engine moves PH or RND. -/
theorem microStep_moves {s : State} (hb : s.busy = true) : (microStep s).PH ≠ s.PH ∨ (microStep s).RND ≠ s.RND := by
  rcases busy_eq_true.mp hb with hph | hph | hph | hph
  · rw [microStep_pad hph]
    simp [hph]
  · rw [microStep_parse hph]
    simp [hph]
  · rw [microStep_round hph]
    by_cases h63 : s.RND = 63#6
    · left
      simp [hph, h63]
    · right
      rw [microRound_RND, nextRound_of_ne h63]
      bv_omega
  · rw [microStep_accum hph]
    cases hfin : s.FIN <;> cases hlenw : s.LENW <;> simp [hph, hfin, hlenw, phaseAfterAccum]

/-- The phase after a micro-step is a function of PH, RND, FIN and LENW. -/
theorem microStep_PH_congr {u v : State} (hph : v.PH = u.PH) (hrnd : v.RND = u.RND) (hfin : v.FIN = u.FIN)
    (hlenw : v.LENW = u.LENW) : (microStep v).PH = (microStep u).PH := by
  unfold microStep
  rw [hph]
  cases hu : u.PH <;> simp [hph, hrnd, hfin, hlenw, hu]

/-- RND after a micro-step is a function of PH and RND. -/
theorem microStep_RND_congr {u v : State} (hph : v.PH = u.PH) (hrnd : v.RND = u.RND) :
    (microStep v).RND = (microStep u).RND := by
  unfold microStep
  rw [hph]
  cases u.PH <;> simp [hrnd]

/-- A step of a busy engine that is no reset is the micro-step. -/
theorem eq_microStep_of_step_busy {s t : State} (h : step s = .next t) (hb : s.busy = true) (hn : NoReset s.inputs) :
    ∃ l, t = microStep (s.deliver.setInputs l) := by
  obtain ⟨rest, hi, -⟩ | ⟨-, -, ⟨-, l, ht⟩ | ⟨hb', -⟩ | ⟨hb', -⟩⟩ := step_cases h
  · simp [NoReset, hi] at hn
  · exact ⟨l, ht⟩
  all_goals simp [hb] at hb'

/-- Settles O31: both steps are micro-steps, and those read nothing else for PH and RND. -/
theorem nextPhaseDependsOnSequencerAlone : Obligations.NextPhaseDependsOnSequencerAlone := by
  intro s s' t t' hb hn hn' hph hrnd hfin hlenw h h'
  have hb' : s'.busy = true := by rw [State.busy, hph]; exact hb
  obtain ⟨l, rfl⟩ := eq_microStep_of_step_busy h hb hn
  obtain ⟨l', rfl⟩ := eq_microStep_of_step_busy h' hb' hn'
  exact ⟨microStep_PH_congr hph hrnd hfin hlenw, fun _ => microStep_RND_congr hph hrnd⟩

/-- Settles O22: busy, the step is a micro-step, which moves PH or RND; not busy, it is the host's action. -/
theorem exactlyOneAgentMoves : Obligations.ExactlyOneAgentMoves := by
  refine fun s => ⟨busy_eq_true, by simp [State.cmdReady], fun hc hb hn => ?_, step_no_input, fun _ => step_idle⟩
  refine ⟨_, step_busy_noReset hc hb hn, ?_⟩
  have hmoves := microStep_moves (s := s.deliver.setInputs (heldStream s.inputs)) hb
  simp only [microStep_inputs, microStep_faultLog, microStep_ERR, microStep_ECODE, microStep_rsp,
    State.setInputs_inputs]
  exact ⟨heldStream_of_waits, fun rest hi => by rw [hi, heldStream_idle], rfl, rfl, rfl, rfl, hmoves⟩

/-! ### The writers of each register -/

/-- PAD keeps the bytes below CNT (41 R162). -/
theorem padByte_of_lt (buf : Vector Byte 64) {cnt : BitVec 7} (len : LenWord) {j : Fin 64} (h : j.val < cnt.toNat) :
    padByte buf cnt len j = buf[j] := by
  simp [padByte, h]

/-- A write to one byte of the buffer changes no other. -/
theorem eq_of_getElem_set_ne {buf : Vector Byte 64} {n : Nat} (hn : n < 64) {v : Byte} {j : Fin 64}
    (h : (buf.set n v hn)[j] ≠ buf[j]) : j.val = n := by
  by_contra hne
  exact h (Vector.getElem_set_ne hn j.isLt (Ne.symm hne))

/-- PAD's write to LENW can only set it. -/
theorem lengthPlaced_of_ne {cnt : BitVec 7} {lenw : Bool} (h : lengthPlaced cnt lenw ≠ lenw) :
    lengthPlaced cnt lenw = true := by
  rcases Nat.lt_or_ge 56 cnt.toNat with hgt | hle
  · exact absurd (lengthPlaced_of_gt lenw hgt) h
  · exact lengthPlaced_of_le lenw hle

section
variable {s t : State} (h : Transition s t) (hn : s.inputs.head? ≠ some .reset)
include h hn

theorem Transition.chain_writer (hw : t.chain ≠ s.chain) : s.PH = .accum ∨ ∃ rest, s.accepts (encode .init) rest := by
  cases h with
  | reset rest hi => simp [hi] at hn
  | accum _ _ hph => exact .inl hph
  | init rest ha => exact .inr ⟨rest, ha⟩
  | _ => simp [State.chain] at hw

theorem Transition.work_writer (hw : t.work ≠ s.work) : s.PH = .parse ∨ s.PH = .round := by
  cases h with
  | reset rest hi => simp [hi] at hn
  | parse _ _ hph => exact .inl hph
  | round _ _ hph => exact .inr hph
  | _ => simp [State.work] at hw

theorem Transition.W_writer (hw : t.W ≠ s.W) : s.PH = .parse := by
  cases h with
  | reset rest hi => simp [hi] at hn
  | parse _ _ hph => exact hph
  | _ => simp at hw

theorem Transition.BUF_writer {j : Fin 64} (hw : t.BUF[j] ≠ s.BUF[j]) :
    (s.PH = .pad ∧ s.CNT.toNat ≤ j.val) ∨
    (j.val = s.CNT.toNat ∧ s.PH = .absorb ∧
      ((∃ b rest, s.accepts (encode (.push b)) rest) ∨ ∃ rest, s.accepts (encode .final) rest)) := by
  cases h with
  | reset rest hi => simp [hi] at hn
  | pad _ _ hph =>
    refine .inl ⟨hph, Nat.le_of_not_lt fun hlt => hw ?_⟩
    simpa using padByte_of_lt s.BUF s.LEN hlt
  | push b rest ha hph hlt => exact .inr ⟨eq_of_getElem_set_ne hlt hw, hph, .inl ⟨b, rest, ha⟩⟩
  | final rest ha hph hlt => exact .inr ⟨eq_of_getElem_set_ne hlt hw, hph, .inr ⟨rest, ha⟩⟩
  | _ => simp at hw

theorem Transition.CNT_writer (hw : t.CNT ≠ s.CNT) :
    s.PH = .pad ∨ s.PH = .accum ∨
      ∃ rest, s.accepts (encode .init) rest ∨ s.accepts (encode .final) rest ∨ ∃ b, s.accepts (encode (.push b)) rest := by
  cases h with
  | reset rest hi => simp [hi] at hn
  | pad _ _ hph => exact .inl hph
  | accum _ _ hph => exact .inr (.inl hph)
  | init rest ha => exact .inr (.inr ⟨rest, .inl ha⟩)
  | final rest ha => exact .inr (.inr ⟨rest, .inr (.inl ha)⟩)
  | push b rest ha => exact .inr (.inr ⟨rest, .inr (.inr ⟨b, ha⟩)⟩)
  | _ => simp at hw

theorem Transition.LEN_writer (hw : t.LEN ≠ s.LEN) :
    ∃ rest, s.accepts (encode .init) rest ∨ ∃ b, s.accepts (encode (.push b)) rest := by
  cases h with
  | reset rest hi => simp [hi] at hn
  | init rest ha => exact ⟨rest, .inl ha⟩
  | push b rest ha => exact ⟨rest, .inr ⟨b, ha⟩⟩
  | _ => simp at hw

theorem Transition.RND_writer (hw : t.RND ≠ s.RND) : s.PH = .parse ∨ s.PH = .round := by
  cases h with
  | reset rest hi => simp [hi] at hn
  | parse _ _ hph => exact .inl hph
  | round _ _ hph => exact .inr hph
  | _ => simp at hw

/-- FIN is written by FINAL, which sets it, and by INIT, which clears it. -/
theorem Transition.FIN_writer (hw : t.FIN ≠ s.FIN) :
    (t.FIN = true ∧ s.PH = .absorb ∧ ∃ rest, s.accepts (encode .final) rest) ∨
    (t.FIN = false ∧ ∃ rest, s.accepts (encode .init) rest) := by
  cases h with
  | reset rest hi => simp [hi] at hn
  | final rest ha hph => exact .inl ⟨rfl, hph, rest, ha⟩
  | init rest ha => exact .inr ⟨rfl, rest, ha⟩
  | _ => simp at hw

/-- PAD writes LENW and never clears it; INIT clears it. -/
theorem Transition.LENW_writer (hw : t.LENW ≠ s.LENW) :
    (t.LENW = true ∧ s.PH = .pad) ∨ (t.LENW = false ∧ ∃ rest, s.accepts (encode .init) rest) := by
  cases h with
  | reset rest hi => simp [hi] at hn
  | pad _ _ hph =>
    refine .inl ⟨?_, hph⟩
    rw [microPad_LENW] at hw ⊢
    exact lengthPlaced_of_ne hw
  | init rest ha => exact .inr ⟨rfl, rest, ha⟩
  | _ => simp at hw

end

/-- Settles O32: of the transitions that are no reset, only these write A to D, a to d, W and BUF. -/
theorem datapathRegistersHaveTheirWriters : Obligations.DatapathRegistersHaveTheirWriters := by
  intro s t hstep hn
  have h := transition_of_step hstep
  exact ⟨h.chain_writer hn, h.work_writer hn, h.W_writer hn, fun _ => h.BUF_writer hn⟩

/-- Settles O33: of the transitions that are no reset, only these write CNT, LEN, RND, FIN and LENW. -/
theorem countersAndFlagsHaveTheirWriters : Obligations.CountersAndFlagsHaveTheirWriters := by
  intro s t hstep hn
  have h := transition_of_step hstep
  refine ⟨h.CNT_writer hn, h.LEN_writer hn, h.RND_writer hn, ?_, ?_, ?_, ?_⟩ <;> intro hs ht
  · simpa [ht] using h.FIN_writer hn (by simp [hs, ht])
  · simpa [ht] using h.LENW_writer hn (by simp [hs, ht])
  · simpa [ht] using h.FIN_writer hn (by simp [hs, ht])
  · simpa [ht] using h.LENW_writer hn (by simp [hs, ht])

end Sys2Proof.Machine
end

section
/-! PROOF. STATUS (10 R45), the reset values (10 R50), and the states in which a command or a step stops. -/

namespace Sys2Proof.Machine

/-- The fields of STATUS, from bit 0 up (10 R45). -/
theorem status_fields (s : State) :
    s.status.getLsbD 0 = !s.busy ∧ s.status.getLsbD 1 = decide (s.PH = .absorb) ∧
    s.status.getLsbD 2 = decide (s.PH = .done) ∧ s.status.getLsbD 3 = s.ERR ∧
    s.status.extractLsb' 4 2 = s.ECODE.bits ∧ s.status.extractLsb' 6 2 = 0#2 ∧
    s.status.extractLsb' 0 3 =
      BitVec.ofBool (decide (s.PH = .done)) ++ BitVec.ofBool (decide (s.PH = .absorb)) ++ BitVec.ofBool !s.busy := by
  unfold State.status
  generalize s.ECODE.bits = code
  generalize s.ERR = err
  generalize decide (s.PH = .done) = done
  generalize decide (s.PH = .absorb) = opened
  generalize (!s.busy) = ready
  revert code err done opened ready
  decide

/-- Settles O12: each bit of STATUS is a bit of its concatenation. -/
theorem statusBitsShowState : Obligations.StatusBitsShowState := by
  intro s
  obtain ⟨hready, hopen, hdone, herr, hcode, hzero, hphase⟩ := status_fields s
  refine ⟨?_, ?_, ?_, herr, ?_, hzero, ?_, ?_, hready⟩
  · rw [hready, ← busy_eq_true, Bool.not_eq_true', Bool.not_eq_true]
  · rw [hopen, decide_eq_true_iff]
  · rw [hdone, decide_eq_true_iff]
  · rw [hcode]
    cases s.ECODE <;> rfl
  · intro hph
    rw [hphase, State.busy, hph]
    rfl
  · intro hb
    rw [hphase, hb]
    rcases busy_eq_true.mp hb with hph | hph | hph | hph <;> rw [hph] <;> rfl

/-- Settles O34: the values are those State.reset names. -/
theorem resetGivesSpecifiedValues : Obligations.ResetGivesSpecifiedValues :=
  ⟨rfl, rfl, rfl, rfl, rfl, by decide⟩

/-! ### Stops -/

/-- Settles O49: a permitted PUSH or FINAL appends a byte, and BUF has none at CNT. -/
theorem bufferIndexOutOfRangeFaults : Obligations.BufferIndexOutOfRangeFaults := by
  intro s b hc hph hge
  have hr : s.Ready := .inr (.inl hph)
  constructor
  · rw [exec_permitted (i := .push b) hc hr hph, effectOf, pushEffect, appendByte_of_ge b hge, andThen_fault]
  · rw [exec_permitted (i := .final) hc hr hph, effectOf, finalEffect, appendByte_of_ge _ hge, andThen_fault]

/-- A state with a reserved code has a reason to be refused. -/
theorem exists_reservedCode_of_not_assigned {s : State} (h : ¬ s.CodesAssigned) : ∃ r, s.reservedCode = some r :=
  Option.ne_none_iff_exists'.mp (mt reservedCode_eq_none.mp h)

theorem step_refused {s : State} {r : Refusal} (h : s.reservedCode = some r) (hn : NoReset s.inputs) :
    step s = .refused r := by
  unfold step oneStep
  split
  case h_1 hi => simp [NoReset, hi] at hn
  all_goals exact engineFirst_refused h

/-- Settles O50: the reason is asked for before the command's legality and before the engine's move. -/
theorem reservedCodesAreRefused : Obligations.ReservedCodesAreRefused := by
  intro s hc
  obtain ⟨r, hr⟩ := exists_reservedCode_of_not_assigned hc
  exact ⟨fun i => ⟨r, (exec_eq i s).trans (runCommand_refused hr)⟩, fun hn => ⟨r, step_refused hr hn⟩⟩

end Sys2Proof.Machine
end

section
/-! PROOF. What the reads leave unchanged (20 R81). -/

namespace Sys2Proof.Machine

@[simp] theorem State.respond_respond (s : State) (v w : Byte) : (s.respond v).respond w = s.respond w := rfl
@[simp] theorem State.respond_chain (s : State) (v : Byte) : (s.respond v).chain = s.chain := rfl
@[simp] theorem State.respond_status (s : State) (v : Byte) : (s.respond v).status = s.status := rfl

theorem codesAssigned_respond {s : State} (hc : s.CodesAssigned) (v : Byte) : (s.respond v).CodesAssigned :=
  ⟨hc.ph, hc.ecode⟩

/-- RDBYTE, RDHEX and RDSTAT: the commands with OP 0x4, 0x5 and 0x6 (30 R103). -/
def IsRead (i : Instr) : Prop := (∃ k, i = .rdbyte k) ∨ (∃ k, i = .rdhex k) ∨ i = .rdstat

/-- A read answers one byte, and the channel has no part in which byte it is. -/
theorem effectOf_read {i : Instr} (hi : IsRead i) :
    ∃ answer : State → Byte, (∀ s, effectOf i s = .next (s.respond (answer s))) ∧
      ∀ s v, answer (s.respond v) = answer s := by
  obtain ⟨k, rfl⟩ | ⟨k, rfl⟩ | rfl := hi
  · exact ⟨fun s => digestByte s.chain k.toNat, fun _ => rfl, by simp⟩
  · exact ⟨fun s => hexChar s.chain k.toNat, fun _ => rfl, by simp⟩
  · exact ⟨State.status, fun _ => rfl, by simp⟩

/-- A permitted read puts a byte on the channel, and the same read again puts the same byte there. -/
theorem exec_read_permitted {i : Instr} (hi : IsRead i) {s t : State} (hc : s.CodesAssigned) (hr : s.Ready)
    (hp : Permitted i s.PH) (he : effectOf i s = .next t) : ∃ v, t = s.respond v ∧ exec i t = .next t := by
  obtain ⟨answer, heffect, hanswer⟩ := effectOf_read hi
  rw [heffect] at he
  cases he
  refine ⟨answer s, rfl, ?_⟩
  have hagain : exec i (s.respond (answer s)) = effectOf i (s.respond (answer s)) :=
    exec_permitted (codesAssigned_respond hc _) hr hp
  rw [hagain, heffect, hanswer, State.respond_respond]

/-- Settles O24: a held read changes nothing, a read out of its phase is logged, and a permitted one writes the
channel. -/
theorem readsChangeNoRegister : Obligations.ReadsChangeNoRegister := by
  intro i s t hi h
  obtain ⟨hc, ⟨-, rfl⟩ | ⟨-, -, rfl⟩ | ⟨hr, hp, he⟩⟩ := exec_cases h
  · exact ⟨fun _ => ⟨rfl, h⟩, fun hlog => absurd rfl hlog⟩
  · exact ⟨fun hlog => by simp at hlog, fun _ => rfl⟩
  · obtain ⟨v, rfl, hagain⟩ := exec_read_permitted hi hc hr hp he
    exact ⟨fun _ => ⟨rfl, hagain⟩, fun hlog => absurd rfl hlog⟩

end Sys2Proof.Machine
end

section
/-! PROOF. Command words: each command has one word, which the decoder reads back and its row of 30 R105 selects; the
malformed words are the ones left over. O3, O2, O4 and O1. -/

namespace Sys2Proof

open Sys2Proof.Machine

/-! ### Fixed high bits and an operand -/

section
variable {m n : Nat} (hi : BitVec m) (x : BitVec n) (w : BitVec (m + n))

theorem toNat_high_append : (hi ++ x).toNat = x.toNat + 2 ^ n * hi.toNat := by
  rw [BitVec.toNat_append, ← Nat.shiftLeft_add_eq_or_of_lt x.isLt, Nat.shiftLeft_eq, Nat.mul_comm, Nat.add_comm]

/-- A word is its high bits and an operand exactly when the two are its quotient and its remainder by `2 ^ n`. -/
theorem eq_append_iff : w = hi ++ x ↔ w.toNat / 2 ^ n = hi.toNat ∧ x.toNat = w.toNat % 2 ^ n := by
  rw [← BitVec.toNat_inj, toNat_high_append, eq_comm (a := x.toNat), Nat.div_mod_unique (Nat.two_pow_pos n)]
  exact ⟨fun h => ⟨h.symm, x.isLt⟩, fun ⟨h, _⟩ => h.symm⟩

theorem exists_eq_append_iff : (∃ x : BitVec n, w = hi ++ x) ↔ w.toNat / 2 ^ n = hi.toNat := by
  simp only [eq_append_iff, exists_and_left, and_iff_left_iff_imp]
  exact fun _ => ⟨BitVec.ofNat n w.toNat, BitVec.toNat_ofNat _ _⟩

/-- Masking the operand off leaves the high bits. -/
theorem and_highMask_eq_iff : w &&& (BitVec.allOnes m ++ 0#n) = hi ++ 0#n ↔ w.toNat / 2 ^ n = hi.toNat := by
  rw [← exists_eq_append_iff]
  conv_lhs => rw [← BitVec.extractLsb'_append_extractLsb' (x := w), BitVec.and_append, BitVec.and_allOnes,
    BitVec.and_zero, BitVec.append_left_inj]
  constructor
  · intro h
    exact ⟨w.extractLsb' 0 n, by rw [← h, BitVec.extractLsb'_append_extractLsb']⟩
  · rintro ⟨x, rfl⟩
    exact BitVec.extractLsb'_append_eq_left

end

/-! ### Decoder and encoder -/

/-- The decoder reads back the word the encoder writes (30 R105, R106). -/
@[simp] theorem decode_encode (i : Instr) : decode (encode i) = .command i := by
  cases i with
  | init | final | rdstat => rfl
  | push b => revert b; decide
  | rdbyte k => revert k; decide
  | rdhex k => revert k; decide

theorem decode_eq_command_iff {w : CmdWord} {i : Instr} : decode w = .command i ↔ w = encode i :=
  ⟨eq_encode_of_decode, fun h => h ▸ decode_encode i⟩

/-- On a number of 16 bits the table reading is the decoder (30 R109). -/
theorem decodeTableWord_toNat {w : CmdWord} {i : Instr} (h : decode w = .command i) :
    decodeTableWord 16 w.toNat = some i := by
  simp [decodeTableWord, Nat.mod_eq_of_lt w.isLt, w.isLt, h]

/-- Settles O3: the encoder's word is the only word the decoder reads as that command. -/
theorem decodeAndEncodeAgree : Obligations.DecodeAndEncodeAgree :=
  fun _ i => ⟨decode_eq_command_iff, decodeTableWord_toNat (decode_encode i)⟩

/-! ### The words of the commands -/

theorem Instr.exists_iff {p : Instr → Prop} : (∃ i, p i) ↔
    p .init ∨ (∃ b, p (.push b)) ∨ p .final ∨ (∃ k, p (.rdbyte k)) ∨ (∃ k, p (.rdhex k)) ∨
    p .rdstat := by
  constructor
  · rintro ⟨i, h⟩
    cases i with
    | init => exact .inl h
    | push b => exact .inr (.inl ⟨b, h⟩)
    | final => exact .inr (.inr (.inl h))
    | rdbyte k => exact .inr (.inr (.inr (.inl ⟨k, h⟩)))
    | rdhex k => exact .inr (.inr (.inr (.inr (.inl ⟨k, h⟩))))
    | rdstat => exact .inr (.inr (.inr (.inr (.inr h))))
  · rintro (h | ⟨_, h⟩ | h | ⟨_, h⟩ | ⟨_, h⟩ | h) <;> exact ⟨_, h⟩

/-- The words of the six commands, by value: fixed high bits with any operand, or one word. -/
theorem exists_decode_command_iff (w : CmdWord) : (∃ i, decode w = .command i) ↔
    w = 0x1000#16 ∨ w.toNat / 2 ^ 8 = 0x20 ∨ w = 0x3000#16 ∨ w.toNat / 2 ^ 4 = 0x400 ∨
    w.toNat / 2 ^ 5 = 0x280 ∨ w = 0x6000#16 := by
  simp only [decode_eq_command_iff, Instr.exists_iff]
  exact or_congr Iff.rfl <| or_congr (exists_eq_append_iff (m := 8) (n := 8) 0x20#8 w) <|
    or_congr Iff.rfl <| or_congr (exists_eq_append_iff (m := 12) (n := 4) 0x400#12 w) <|
    or_congr (exists_eq_append_iff (m := 11) (n := 5) 0x280#11 w) Iff.rfl

section
variable (b : BitVec 8) (k4 : BitVec 4) (k5 : BitVec 5)

@[simp] theorem toNat_encode_push : (encode (.push b)).toNat = b.toNat + 2 ^ 8 * 0x20 := toNat_high_append 0x20#8 b
@[simp] theorem toNat_encode_rdbyte : (encode (.rdbyte k4)).toNat = k4.toNat + 2 ^ 4 * 0x400 :=
  toNat_high_append 0x400#12 k4
@[simp] theorem toNat_encode_rdhex : (encode (.rdhex k5)).toNat = k5.toNat + 2 ^ 5 * 0x280 :=
  toNat_high_append 0x280#11 k5

end

theorem exists_malformed_iff (w : CmdWord) : (∃ why, decode w = .malformed why) ↔
    ¬ ∃ i, decode w = .command i := by
  cases decode w <;> simp

/-! ### The rows of the opcode table -/

section
variable (w : CmdWord)

theorem selects_wholeWord (v : CmdWord) : w &&& 0xFFFF#16 = v ↔ w = v := by
  rw [show (0xFFFF#16 : CmdWord) = BitVec.allOnes 16 from rfl, BitVec.and_allOnes]

theorem selects_push : w &&& 0xFF00#16 = 0x2000#16 ↔ w.toNat / 2 ^ 8 = 0x20 :=
  and_highMask_eq_iff (m := 8) (n := 8) 0x20#8 w

theorem selects_rdbyte : w &&& 0xFFF0#16 = 0x4000#16 ↔ w.toNat / 2 ^ 4 = 0x400 :=
  and_highMask_eq_iff (m := 12) (n := 4) 0x400#12 w

theorem selects_rdhex : w &&& 0xFFE0#16 = 0x5000#16 ↔ w.toNat / 2 ^ 5 = 0x280 :=
  and_highMask_eq_iff (m := 11) (n := 5) 0x280#11 w

end

/-- Settles O2: a row's mask leaves the high bits that the encoder puts before the operand. -/
theorem decodeMatchesOpcodeRows : Obligations.DecodeMatchesOpcodeRows := by
  intro w
  simp only [selects_wholeWord, selects_push, selects_rdbyte, selects_rdhex]
  refine ⟨decode_eq_command_iff, fun b => decode_eq_command_iff.trans ?push, decode_eq_command_iff,
    fun k => decode_eq_command_iff.trans ?rdbyte, fun k => decode_eq_command_iff.trans ?rdhex,
    decode_eq_command_iff, ?_⟩
  case push => exact eq_append_iff (m := 8) (n := 8) 0x20#8 b w
  case rdbyte => exact eq_append_iff (m := 12) (n := 4) 0x400#12 k w
  case rdhex => exact eq_append_iff (m := 11) (n := 5) 0x280#11 k w
  rw [exists_malformed_iff, exists_decode_command_iff]

/-- Settles O4: by value, the clauses of R107 are what the words of the six commands leave over. -/
theorem malformedWordsAreTheListedOnes : Obligations.MalformedWordsAreTheListedOnes := by
  intro w
  rw [exists_malformed_iff, exists_decode_command_iff]
  unfold WellFormed.op WellFormed.rsv WellFormed.opd
  bv_omega

/-- Settles O1: the legal words are those of their commands, the others are no command's word. -/
theorem decoderReadsListedWords : Obligations.DecoderReadsListedWords := by
  refine ⟨decode_encode .init, decode_encode (.push 0x00#8), decode_encode (.push 0xff#8), decode_encode .final,
    decode_encode (.rdbyte 15#4), decode_encode (.rdhex 31#5), decode_encode .rdstat, ?_⟩
  simp [exists_malformed_iff, exists_decode_command_iff]

end Sys2Proof
end

section
/-! PROOF. What an accepted word puts on the response channel (30 R103), and O23. -/

namespace Sys2Proof.Machine

@[simp] theorem responds_eq_true {w : CmdWord} : responds w = true ↔ AsksResponse w := by
  have hop : (opField w).toNat = WellFormed.op w := by
    rw [opField, BitVec.extractLsb'_toNat, Nat.shiftRight_eq_div_pow, WellFormed.op]
    omega
  simp [responds, AsksResponse, or_assoc, ← hop, ← BitVec.toNat_inj]

/-- The commands whose words ask for a response are the reads. -/
theorem asksResponse_encode {i : Instr} : AsksResponse (encode i) ↔ IsRead i := by
  cases i with
  | init | final | rdstat => simp [AsksResponse, IsRead, WellFormed.op, encode]
  | push b =>
    have hop : WellFormed.op (encode (.push b)) = 2 := by rw [WellFormed.op, toNat_encode_push]; omega
    simp [AsksResponse, IsRead, hop]
  | rdbyte k =>
    have hop : WellFormed.op (encode (.rdbyte k)) = 4 := by rw [WellFormed.op, toNat_encode_rdbyte]; omega
    simp [AsksResponse, IsRead, hop]
  | rdhex k =>
    have hop : WellFormed.op (encode (.rdhex k)) = 5 := by rw [WellFormed.op, toNat_encode_rdhex]; omega
    simp [AsksResponse, IsRead, hop]

/-- The response of a step that accepts `w` (30 R103): a read puts one byte on the channel, 0x00 if it is logged as an
error; any other word leaves the channel as it was. -/
structure Answered (w : CmdWord) (s t : State) : Prop where
  taken : t.responses = s.responses
  read : AsksResponse w → ∃ v, t.rsp = some v ∧ (t.faultLog ≠ s.faultLog → v = 0x00#8)
  other : ¬ AsksResponse w → t.rsp = s.rsp

theorem Answered.of_error (w : CmdWord) (e : CmdError) (s : State) : Answered w s (raiseCmdError w e s) where
  taken := rfl
  read hw := ⟨0x00#8, by simp [hw], fun _ => rfl⟩
  other hw := by simp [hw]

/-- A command that is no read leaves the channel alone. -/
theorem effectOf_not_read {i : Instr} (hi : ¬ IsRead i) {s t : State} (h : effectOf i s = .next t) :
    t.responses = s.responses ∧ t.rsp = s.rsp := by
  cases i with
  | init => cases h; exact ⟨rfl, rfl⟩
  | push b => obtain ⟨hlt, rfl⟩ := pushEffect_cases h; exact ⟨rfl, rfl⟩
  | final => obtain ⟨hlt, rfl⟩ := finalEffect_cases h; exact ⟨rfl, rfl⟩
  | rdbyte | rdhex | rdstat => simp [IsRead] at hi

theorem Answered.of_effect {i : Instr} {s t : State} (h : effectOf i s = .next t) : Answered (encode i) s t := by
  by_cases hi : IsRead i
  · obtain ⟨answer, heffect, -⟩ := effectOf_read hi
    rw [heffect] at h
    cases h
    exact ⟨rfl, fun _ => ⟨answer s, rfl, fun hlog => absurd rfl hlog⟩,
      fun hw => absurd (asksResponse_encode.mpr hi) hw⟩
  · obtain ⟨hresponses, hrsp⟩ := effectOf_not_read hi h
    exact ⟨hresponses, fun hw => absurd (asksResponse_encode.mp hw) hi, fun _ => hrsp⟩

theorem Answered.of_acceptWord {w : CmdWord} {s t : State} (hr : s.Ready) (h : acceptWord w s = .next t) :
    Answered w s t := by
  obtain ⟨why, -, rfl⟩ | ⟨i, hd, he⟩ := acceptWord_cases h
  · exact .of_error w .malformed s
  · obtain rfl := eq_encode_of_decode hd
    obtain ⟨-, ⟨hb, -⟩ | ⟨-, -, rfl⟩ | ⟨-, -, he⟩⟩ := exec_cases he
    · exact absurd hb (by simp [busy_eq_false_of_ready hr])
    · exact .of_error (encode i) .phase s
    · exact .of_effect he

/-- Settles O23: the byte of the step before is taken, so what the host has seen grows by the new response alone. -/
theorem oneResponsePerReadCommand : Obligations.OneResponsePerReadCommand := by
  intro s t w rest ⟨hc, hr, hi⟩ h
  rw [step_accept hc (busy_eq_false_of_ready hr) hi] at h
  obtain ⟨htaken, hread, hother⟩ := Answered.of_acceptWord (s := s.deliver.setInputs rest) hr h
  have hobserved : t.observed = s.observed ++ t.rsp.toList := by rw [State.observed, htaken]; rfl
  refine ⟨fun hw => ?_, fun hw => ?_, fun hw hlog => ?_⟩
  · obtain ⟨v, hv, -⟩ := hread hw
    simp [hobserved, hv]
  · simp [hobserved, hother hw]
  · obtain ⟨v, hv, hzero⟩ := hread hw
    simp [hobserved, hv, hzero hlog]

end Sys2Proof.Machine
end

section
/-! PROOF. The assembler's lines (30 R111), and O5. -/

namespace Sys2Proof.Machine

theorem assemble_of_operand {l : AsmLine} {w : CmdWord} (h : l.inRange = true) (hw : l.toWord = w) :
    assemble l = some w := by
  rw [assemble, if_pos h, hw]

theorem assemble_of_not_inRange {l : AsmLine} (h : l.inRange = false) : assemble l = none := by
  simp [assemble, h]

/-- A line other than `.word` stands for the word of a command. -/
theorem exists_toWord_eq_encode {l : AsmLine} (h : ∀ n, l ≠ .word n) : ∃ i, l.toWord = encode i := by
  cases l with
  | init | push | pushChar | final | rdbyte | rdhex | rdstat => simp [AsmLine.toWord]
  | word n => exact absurd rfl (h n)

theorem exists_decode_of_assemble {l : AsmLine} {w : CmdWord} (h : ∀ n, l ≠ .word n) (hw : assemble l = some w) :
    ∃ i, decode w = .command i := by
  unfold assemble at hw
  split at hw
  · cases hw
    obtain ⟨i, hi⟩ := exists_toWord_eq_encode h
    exact ⟨i, decode_eq_command_iff.mpr hi⟩
  · cases hw

/-- Settles O5: each line by its range, and a line other than `.word` by the command it stands for. -/
theorem assemblerEmitsOnlyLegalWords : Obligations.AssemblerEmitsOnlyLegalWords := by
  refine ⟨rfl, rfl, rfl, fun b => ?_, fun n hn => ?_, fun ch b hcode hch => ?_, fun ch hch => ?_, fun k => ?_,
    fun n hn => ?_, fun k => ?_, fun n hn => ?_, fun w => ?_, fun n hn => ?_, fun l w => exists_decode_of_assemble⟩
  · exact assemble_of_operand (by simp [AsmLine.inRange]; omega) (by simp [AsmLine.toWord])
  · exact assemble_of_not_inRange (by simp [AsmLine.inRange, hn])
  · exact assemble_of_operand (by simp [AsmLine.inRange, hch]) (by simp [AsmLine.toWord, hcode])
  · exact assemble_of_not_inRange (by simp [AsmLine.inRange, hch])
  · exact assemble_of_operand (by simp [AsmLine.inRange]; omega) (by simp [AsmLine.toWord])
  · exact assemble_of_not_inRange (by simp [AsmLine.inRange, hn])
  · exact assemble_of_operand (by simp [AsmLine.inRange]; omega) (by simp [AsmLine.toWord])
  · exact assemble_of_not_inRange (by simp [AsmLine.inRange, hn])
  · exact assemble_of_operand (by simp [AsmLine.inRange]; omega) (by simp [AsmLine.toWord])
  · exact assemble_of_not_inRange (by simp [AsmLine.inRange, hn])

end Sys2Proof.Machine
end

section
/-! PROOF. INIT and PUSH (spec/40_message_input.md): the whole next state of each, O13 and O14. -/

namespace Sys2Proof.Machine

/-- The only word with OP = 1 that is a command is INIT's (30 R105, R107). -/
theorem exists_malformed_of_op_one {w : CmdWord} (hop : WellFormed.op w = 1) (hw : w ≠ 0x1000#16) :
    ∃ why, decode w = .malformed why := by
  rw [exists_malformed_iff, exists_decode_command_iff]
  unfold WellFormed.op at hop
  bv_omega

/-- STATUS of an open message without an error (10 R45). -/
theorem status_of_absorb {s : State} (hph : s.PH = .absorb) (herr : s.ERR = false) (hecode : s.ECODE = .noError) :
    s.status = 0x03#8 := by
  rw [State.status, State.busy, hph, herr, hecode]
  rfl

/-- INIT is permitted in every phase that accepts a command (60 R261). -/
theorem exec_init {s : State} (hc : s.CodesAssigned) (hr : s.Ready) : exec .init s = initEffect s :=
  exec_permitted hc hr trivial

/-- Settles O13: INIT is permitted in each of the three phases, and so once more in the ABSORB it leads to. -/
theorem initOpensMessage : Obligations.InitOpensMessage := by
  refine ⟨rfl, fun w => exists_malformed_of_op_one, fun s hc hr => ⟨_, exec_init hc hr, rfl, ?status, ?again⟩⟩
  case status => exact status_of_absorb rfl rfl rfl
  case again => exact exec_init ⟨by simp, by simp⟩ (.inr (.inl rfl))

/-- PUSH's choice of phase, by the count before the byte (40 R144). -/
theorem phaseAfterPush_add_one (cnt : BitVec 7) (p : Phase) :
    phaseAfterPush (cnt + 1) p = if cnt = 63 then .parse else p := by
  have hfull : cnt + 1 = 64 ↔ cnt = 63 := by bv_omega
  simp only [phaseAfterPush, hfull]

/-- Settles O14: PUSH is permitted in ABSORB, and CNT leaves room for its byte. -/
theorem pushAppendsMessageByte : Obligations.PushAppendsMessageByte := by
  intro b s hlt hc hph
  have hp : Permitted (.push b) s.PH := hph
  rw [exec_permitted hc (.inr (.inl hph)) hp, effectOf, pushEffect_of_lt b hlt, phaseAfterPush_add_one, hph]

end Sys2Proof.Machine
end

section
/-! PROOF. The round datapath computes the source's round (spec/43_round_function.md against Machine/Algorithm.lean). -/

namespace Sys2Proof.Machine

/-- The rotator is the rotation of the source, for every amount below the width (43 R196). -/
theorem rotl_eq_rotateLeft (x : Word) {n : Nat} (h : n < 32) : rotl x n = x.rotateLeft n := by
  rw [BitVec.rotateLeft_def, Nat.mod_eq_of_lt h]
  by_cases hn : n = 0
  · simp [rotl, hn, BitVec.ushiftRight_eq_zero]
  · rw [rotl, if_neg hn]

theorem shiftAmount_lt (i : BitVec 6) : shiftAmount i < 32 := by
  revert i; decide

/-- S[i] is the source's shift amount for the range of i (43 R191). -/
theorem shiftAmount_eq_shift (i : BitVec 6) : shiftAmount i = Algorithm.shift i.toNat := by
  revert i; decide

/-- The rotation of a round, in the source's terms. -/
theorem rotl_shiftAmount (x : Word) (i : BitVec 6) :
    rotl x (shiftAmount i) = x.rotateLeft (Algorithm.shift i.toNat) := by
  rw [rotl_eq_rotateLeft x (shiftAmount_lt i), shiftAmount_eq_shift]

/-- g is the source's message-word index for the range of i (43 R194). -/
theorem toNat_gidx (i : BitVec 6) : (gidx i).toNat = Algorithm.wordIndex i.toNat := by
  revert i; decide

theorem roundConst_eq_constant (i : BitVec 6) : roundConst i = Algorithm.constant i.toNat := by
  have hi : i.toNat < romT.toList.length := i.isLt
  rw [Algorithm.constant, List.getD_eq_getElem _ _ hi, Vector.getElem_toList]
  rfl

theorem toNat_fsel (i : BitVec 6) : (fsel i).toNat = i.toNat / 16 := by
  rw [fsel, BitVec.extractLsb'_toNat, Nat.shiftRight_eq_div_pow]
  omega

/-- The mux selects the source's nonlinear function for the range of i (43 R192, R193). -/
theorem muxF_eq_nonlinear (i : BitVec 6) (b c d : Word) :
    muxF (fsel i) b c d = Algorithm.nonlinear i.toNat b c d := by
  have hi := i.isLt
  have hgroup : i.toNat / 16 = 0 ∨ i.toNat / 16 = 1 ∨ i.toNat / 16 = 2 ∨ i.toNat / 16 = 3 := by omega
  rw [muxF, toNat_fsel, Algorithm.nonlinear]
  rcases hgroup with h | h | h | h
  · rw [if_pos (by omega), h]; rfl
  · rw [if_neg (by omega), if_pos (by omega), h]; rfl
  · rw [if_neg (by omega), if_neg (by omega), if_pos (by omega), h]; rfl
  · rw [if_neg (by omega), if_neg (by omega), if_neg (by omega), h]; rfl

/-- PARSE's word j is the source's M[j] (42 R180). -/
theorem blockWord_eq_message (buf : Vector Byte 64) (j : Fin 16) : blockWord buf j = Algorithm.message buf j.val := by
  apply BitVec.eq_of_toNat_eq
  have hbyte : ∀ k (h : k < 64), buf.toList.getD k 0 = buf[k] := fun k h => by simp [h]
  have hlt := (blockWord buf j).isLt
  rw [blockWord, toNat_le32] at hlt ⊢
  rw [Algorithm.message, hbyte _ (by omega), hbyte _ (by omega), hbyte _ (by omega), hbyte _ (by omega),
    BitVec.toNat_ofNat, Nat.mod_eq_of_lt hlt]

/-- ROUND on the words PARSE has made is one step of the source's loop (43 R197). -/
theorem roundStep_eq_round (i : BitVec 6) (buf : Vector Byte 64) (q : Quad) :
    roundStep i (Vector.ofFn (blockWord buf)) q = Algorithm.round (Algorithm.message buf) q i.toNat := by
  simp only [roundStep, Algorithm.round, adder4, rotl_shiftAmount, muxF_eq_nonlinear, roundConst_eq_constant,
    Vector.getElem_ofFn, blockWord_eq_message, toNat_gidx]

end Sys2Proof.Machine
end

section
/-! PROOF. Runs with the blocks they parse, and the 66 micro-steps of one compression (70 R300). -/

namespace Sys2Proof.Machine

/-! ### Runs and the blocks they parse -/

/-- n steps from s end in t, and PARSE reads the blocks `bs` on the way (41 R165). -/
structure ParsingRun (n : Nat) (s : State) (bs : List (Vector Byte 64)) (t : State) : Prop where
  run : runFor n s = .next t
  parsed : parsedBlocks n s = bs

theorem parsedBlocks_succ {n : Nat} {s t : State} (h : step s = .next t) :
    parsedBlocks (n + 1) s =
      (if s.PH = .parse ∧ s.inputs.head? ≠ some .reset then [s.BUF] else []) ++ parsedBlocks n t := by
  rw [parsedBlocks, h]

theorem parsedBlocks_add {m : Nat} (n : Nat) {s t : State} (h : runFor m s = .next t) :
    parsedBlocks (m + n) s = parsedBlocks m s ++ parsedBlocks n t := by
  induction m generalizing s with
  | zero =>
    cases h
    simp [parsedBlocks]
  | succ m ih =>
    rw [runFor_step] at h
    cases hstep : step s with
    | next u =>
      rw [hstep, andThen_next] at h
      rw [Nat.add_right_comm, parsedBlocks_succ hstep, parsedBlocks_succ hstep, ih h, List.append_assoc]
    | fault | refused =>
      rw [hstep] at h
      cases h

theorem ParsingRun.refl (s : State) : ParsingRun 0 s [] s := ⟨rfl, rfl⟩

theorem ParsingRun.trans {m n : Nat} {s t u : State} {bs bs' : List (Vector Byte 64)} (h : ParsingRun m s bs t)
    (h' : ParsingRun n t bs' u) : ParsingRun (m + n) s (bs ++ bs') u where
  run := by rw [runFor_add, h.run, andThen_next, h'.run]
  parsed := by rw [parsedBlocks_add n h.run, h.parsed, h'.parsed]

/-- A step in any phase but PARSE reads no block. -/
theorem ParsingRun.of_step {s t : State} (h : step s = .next t) (hph : s.PH ≠ .parse) : ParsingRun 1 s [] t where
  run := runFor_succ h
  parsed := by
    rw [parsedBlocks_succ h, if_neg fun hp => hph hp.1]
    rfl

/-- A step in PARSE that is no reset reads BUF. -/
theorem ParsingRun.of_parse {s t : State} (h : step s = .next t) (hph : s.PH = .parse) (hn : NoReset s.inputs) :
    ParsingRun 1 s [s.BUF] t where
  run := runFor_succ h
  parsed := by
    rw [parsedBlocks_succ h, if_pos ⟨hph, hn⟩]
    rfl

/-! ### The 64 rounds -/

/-- A micro-step with no response pending, for a host that waits, is the micro-step alone. -/
theorem step_busy_quiet {s : State} (hb : s.busy = true) (hecode : s.ECODE ≠ .code3) (hw : HostWaits s.inputs)
    (hrsp : s.rsp = none) : step s = .next (microStep s) := by
  have hc : s.CodesAssigned := ⟨fun h7 => by simp [busy_eq_true, h7] at hb, hecode⟩
  have hquiet : s.deliver.setInputs s.inputs = s := by
    cases s
    cases hrsp
    simp [State.deliver, State.setInputs]
  rw [step_busy hc hb hw, hquiet]

/-- The state k rounds after PARSE: the working registers hold k passes of the source's loop, and RND and PH stand at the
next micro-step (43 R197). -/
def roundsDone (s : State) (k : Nat) : State :=
  { s.setWork ((List.range k).foldl (Algorithm.round (Algorithm.message s.BUF)) s.work) with
    RND := BitVec.ofNat 6 (min k 63)
    PH := if k < 64 then .round else .accum }

theorem roundsDone_PH_of_lt (s : State) {k : Nat} (hk : k < 64) : (roundsDone s k).PH = .round := if_pos hk

theorem roundsDone_zero {s : State} (hph : s.PH = .round) (hrnd : s.RND = 0) : roundsDone s 0 = s := by
  cases s
  cases hph
  cases hrnd
  rfl

/-- The sequencer after round k (43 R197). -/
theorem sequencer_after_round {k : Nat} (hk : k < 64) :
    nextRound (BitVec.ofNat 6 k) = BitVec.ofNat 6 (min (k + 1) 63) ∧
    phaseAfterRound (BitVec.ofNat 6 k) .round = if k + 1 < 64 then .round else .accum := by
  by_cases hlast : k = 63
  · subst hlast
    exact ⟨rfl, rfl⟩
  · have hne : BitVec.ofNat 6 k ≠ 63#6 := by bv_omega
    rw [nextRound_of_ne hne, phaseAfterRound_of_ne _ hne, Nat.min_eq_left (by omega), if_pos (by omega),
      BitVec.ofNat_add]
    exact ⟨rfl, rfl⟩

/-- One round more. -/
theorem microRound_roundsDone {s : State} (hW : s.W = Vector.ofFn (blockWord s.BUF)) {k : Nat} (hk : k < 64) :
    microRound (roundsDone s k) = roundsDone s (k + 1) := by
  have hrnd : (roundsDone s k).RND = BitVec.ofNat 6 k := by
    rw [roundsDone, Nat.min_eq_left (Nat.le_of_lt_succ hk)]
  have hW' : (roundsDone s k).W = Vector.ofFn (blockWord s.BUF) := hW
  have hwork : roundStep (BitVec.ofNat 6 k) (roundsDone s k).W (roundsDone s k).work = (roundsDone s (k + 1)).work := by
    rw [hW', roundStep_eq_round, BitVec.toNat_ofNat, Nat.mod_eq_of_lt hk]
    simp [roundsDone, State.work, State.setWork, List.range_succ]
  obtain ⟨hnext, hphase⟩ := sequencer_after_round hk
  rw [microRound, hrnd, roundsDone_PH_of_lt s hk, hnext, hphase, hwork]
  rfl

/-- The rounds after PARSE, for a host that waits. -/
theorem ParsingRun.rounds {s : State} (hph : s.PH = .round) (hrnd : s.RND = 0)
    (hW : s.W = Vector.ofFn (blockWord s.BUF)) (hecode : s.ECODE ≠ .code3) (hw : HostWaits s.inputs)
    (hrsp : s.rsp = none) {k : Nat} (hk : k ≤ 64) : ParsingRun k s [] (roundsDone s k) := by
  induction k with
  | zero =>
    rw [roundsDone_zero hph hrnd]
    exact .refl s
  | succ k ih =>
    have hround := roundsDone_PH_of_lt s hk
    have hstep : step (roundsDone s k) = .next (roundsDone s (k + 1)) := by
      rw [step_busy_quiet (s := roundsDone s k) (busy_eq_true.mpr (.inr (.inr (.inl hround)))) hecode hw hrsp,
        microStep_round hround, microRound_roundsDone hW hk]
    exact (ih (Nat.le_of_succ_le hk)).trans (.of_step hstep (by simp [hround]))

/-! ### One compression -/

/-- The state after the 66 micro-steps from PARSE to ACCUM (70 R300). -/
def compressed (s : State) : State := microAccum (roundsDone (microParse s.deliver) 64)

/-- The chaining registers then hold the source's compression of BUF (44 R230). -/
@[simp] theorem compressed_chain (s : State) : (compressed s).chain = Algorithm.compress s.chain s.BUF := by
  have hchain : (roundsDone (microParse s.deliver) 64).chain = s.chain := by simp [roundsDone, State.chain]
  have hwork : (roundsDone (microParse s.deliver) 64).work =
      (List.range 64).foldl (Algorithm.round (Algorithm.message s.BUF)) s.chain := by
    rw [← microParse_work, ← microParse_BUF]; rfl
  rw [compressed, microAccum_chain, hchain, hwork]
  rfl

@[simp] theorem compressed_CNT (s : State) : (compressed s).CNT = 0 := microAccum_CNT _
@[simp] theorem compressed_LEN (s : State) : (compressed s).LEN = s.LEN := by simp [compressed, roundsDone]
@[simp] theorem compressed_FIN (s : State) : (compressed s).FIN = s.FIN := by simp [compressed, roundsDone]
@[simp] theorem compressed_LENW (s : State) : (compressed s).LENW = s.LENW := by simp [compressed, roundsDone]
@[simp] theorem compressed_PH (s : State) : (compressed s).PH = phaseAfterAccum s.FIN s.LENW := by
  simp [compressed, roundsDone]
@[simp] theorem compressed_ECODE (s : State) : (compressed s).ECODE = s.ECODE := by simp [compressed, roundsDone]
@[simp] theorem compressed_inputs (s : State) : (compressed s).inputs = s.inputs := by simp [compressed, roundsDone]

/-- A compression: PARSE, 64 rounds and ACCUM, for a host that waits (70 R300). -/
theorem ParsingRun.compression {s : State} (hc : s.CodesAssigned) (hph : s.PH = .parse) (hw : HostWaits s.inputs) :
    ParsingRun 66 s [s.BUF] (compressed s) := by
  have hparse : step s = .next (microParse s.deliver) := by
    rw [step_busy hc (busy_eq_true.mpr (.inr (.inl hph))) hw]
    exact congrArg _ (microStep_parse (s := s.deliver) hph)
  have hrounds : ParsingRun 64 (microParse s.deliver) [] (roundsDone (microParse s.deliver) 64) :=
    .rounds (by simp) (by simp) (by simp) (by simpa using hc.ecode) (by simpa using hw) (by simp) (Nat.le_refl 64)
  have haccum : step (roundsDone (microParse s.deliver) 64) = .next (compressed s) := by
    have hlast : (roundsDone (microParse s.deliver) 64).PH = .accum := rfl
    rw [step_busy_quiet (busy_eq_true.mpr (.inr (.inr (.inr hlast)))) (by simpa [roundsDone] using hc.ecode)
      (by simpa [roundsDone] using hw) (by simp [roundsDone]), microStep_accum hlast, compressed]
  have hfold : ParsingRun 1 (roundsDone (microParse s.deliver) 64) [] (compressed s) :=
    .of_step haccum (by simp [roundsDone])
  exact ((ParsingRun.of_parse hparse hph (noReset_of_waits hw)).trans hrounds).trans hfold

end Sys2Proof.Machine
end

section
/-! PROOF. A message between INIT and FINAL (40 R145): what the engine holds of the bytes pushed so far, and O44. -/

namespace Sys2Proof.Machine

/-! ### Blocks of a message that grows -/

/-- The first k blocks of a byte list. -/
def firstBlocks (msg : List Byte) (k : Nat) : List (Vector Byte 64) := (List.range k).map (Algorithm.block msg)

theorem blocks_eq_firstBlocks (msg : List Byte) : Algorithm.blocks msg = firstBlocks msg (msg.length / 64) := rfl

theorem firstBlocks_succ (msg : List Byte) (k : Nat) :
    firstBlocks msg (k + 1) = firstBlocks msg k ++ [Algorithm.block msg k] := by
  simp [firstBlocks, List.range_succ]

/-- Bytes after a whole block do not show in it. -/
theorem block_append {msg : List Byte} (l : List Byte) {n : Nat} (h : 64 * n + 64 ≤ msg.length) :
    Algorithm.block (msg ++ l) n = Algorithm.block msg n := by
  ext j hj
  simp [Algorithm.block, List.getElem?_append_left (show 64 * n + j < msg.length by omega)]

theorem firstBlocks_append {msg : List Byte} (l : List Byte) {k : Nat} (h : 64 * k ≤ msg.length) :
    firstBlocks (msg ++ l) k = firstBlocks msg k := by
  refine List.map_congr_left fun n hn => block_append l ?_
  have := List.mem_range.mp hn
  omega

/-- The first n bytes of the buffer are those of the message's block k. -/
def HoldsBytes (buf : Vector Byte 64) (msg : List Byte) (k n : Nat) : Prop :=
  ∀ j : Fin 64, j.val < n → buf[j] = msg.getD (64 * k + j.val) 0

theorem HoldsBytes.zero (buf : Vector Byte 64) (msg : List Byte) (k : Nat) : HoldsBytes buf msg k 0 :=
  fun _ hj => absurd hj (Nat.not_lt_zero _)

theorem HoldsBytes.eq_block {buf : Vector Byte 64} {msg : List Byte} {k : Nat} (h : HoldsBytes buf msg k 64) :
    buf = Algorithm.block msg k := by
  refine Vector.ext fun j hj => ?_
  rw [Algorithm.block, Vector.getElem_ofFn]
  exact h ⟨j, hj⟩ hj

/-- Writing the message's next byte at its place in the buffer. -/
theorem HoldsBytes.set {buf : Vector Byte 64} {msg : List Byte} {k n : Nat} (h : HoldsBytes buf msg k n)
    (hlen : msg.length = 64 * k + n) (hn : n < 64) (b : Byte) : HoldsBytes (buf.set n b hn) (msg ++ [b]) k (n + 1) := by
  intro j hj
  rcases Nat.lt_succ_iff_lt_or_eq.mp hj with hlt | heq
  · have hset : (buf.set n b hn)[j] = buf[j] := Vector.getElem_set_ne hn j.isLt (Nat.ne_of_gt hlt)
    rw [hset, h j hlt, List.getD_append _ _ _ _ (by omega)]
  · have hset : (buf.set n b hn)[j] = b := by simp [heq]
    rw [hset, heq, ← hlen]
    simp

/-! ### What the engine holds of an open message -/

/-- A run from `s₀` has come to `t` and the bytes `msg` have been pushed since INIT: k blocks of them are parsed and
compressed, and BUF holds the others (40 R145). -/
structure Absorbed (s₀ : State) (msg : List Byte) (k : Nat) (t : State) : Prop where
  run : ∃ n, ParsingRun n s₀ (firstBlocks msg k) t
  fin : t.FIN = false
  ecode : t.ECODE ≠ .code3
  len : t.LEN = BitVec.ofNat 64 (8 * msg.length)
  cnt : msg.length = 64 * k + t.CNT.toNat
  chain : t.chain = (firstBlocks msg k).foldl Algorithm.compress iv
  buf : HoldsBytes t.BUF msg k t.CNT.toNat

/-- The engine is in ABSORB, with all whole blocks of the message compressed. -/
def Open (s₀ : State) (msg : List Byte) (t : State) : Prop :=
  t.PH = .absorb ∧ t.CNT.toNat < 64 ∧ ∃ k, Absorbed s₀ msg k t

/-- A step that accepts a command's word runs the command (60 R260). -/
theorem step_encode {s : State} {i : Instr} {rest : List HostInput} (hc : s.CodesAssigned) (hr : s.Ready)
    (hi : s.inputs = .command (encode i) :: rest) : step s = exec i (s.deliver.setInputs rest) := by
  rw [step_accept hc (busy_eq_false_of_ready hr) hi, acceptWord, decode_encode]

theorem ph_ne_parse_of_ready {s : State} (h : s.Ready) : s.PH ≠ .parse := by
  rcases h with h | h | h <;> simp [h]

/-- Accepting a command is one step more, and reads no block. -/
theorem ParsingRun.command {n : Nat} {s₀ s t : State} {bs : List (Vector Byte 64)} (h : ParsingRun n s₀ bs s) {i : Instr}
    {rest : List HostInput} (hc : s.CodesAssigned) (hr : s.Ready) (hi : s.inputs = .command (encode i) :: rest)
    (ht : exec i (s.deliver.setInputs rest) = .next t) : ParsingRun (n + 1) s₀ bs t := by
  simpa using h.trans (.of_step ((step_encode hc hr hi).trans ht) (ph_ne_parse_of_ready hr))

/-- INIT opens the empty message (40 R141). -/
theorem Open.init {s : State} {rest : List HostInput} (hc : s.CodesAssigned) (hr : s.Ready)
    (hi : s.inputs = .command (encode .init) :: rest) : ∃ t, Open s [] t ∧ t.inputs = rest := by
  obtain ⟨-, -, hinit⟩ := initOpensMessage
  obtain ⟨t, hexec, rfl, -⟩ := hinit (s.deliver.setInputs rest) ⟨hc.ph, hc.ecode⟩ hr
  have hrun := (ParsingRun.refl s).command hc hr hi hexec
  have habsorbed : Absorbed s [] 0 _ := ⟨⟨1, hrun⟩, rfl, by simp, rfl, rfl, rfl, .zero _ _ _⟩
  exact ⟨_, ⟨rfl, by simp, 0, habsorbed⟩, rfl⟩

/-- A read leaves all of the message alone: it answers, or is an error that is recorded (20 R81). -/
theorem exec_read {i : Instr} (hi : IsRead i) {s : State} (hc : s.CodesAssigned) (hr : s.Ready) :
    ∃ rsp err code log, exec i s = .next { s with rsp := rsp, ERR := err, ECODE := code, faultLog := log } ∧
      code ≠ .code3 := by
  by_cases hp : Permitted i s.PH
  · obtain ⟨answer, heffect, -⟩ := effectOf_read hi
    exact ⟨_, _, _, _, (exec_permitted hc hr hp).trans (heffect s), hc.ecode⟩
  · exact ⟨_, _, _, _, exec_not_permitted hc hr hp, firstCause_ne_code3 hc.ecode⟩

theorem Open.read {s₀ s : State} {msg : List Byte} (h : Open s₀ msg s) {i : Instr} (hi : IsRead i)
    {rest : List HostInput} (hin : s.inputs = .command (encode i) :: rest) : ∃ t, Open s₀ msg t ∧ t.inputs = rest := by
  obtain ⟨hph, hlt, k, ha⟩ := h
  obtain ⟨n, hrun⟩ := ha.run
  have hc : s.CodesAssigned := ⟨by simp [hph], ha.ecode⟩
  have hr : s.Ready := .inr (.inl hph)
  obtain ⟨rsp, err, code, log, hexec, hcode⟩ := exec_read (s := s.deliver.setInputs rest) hi ⟨hc.ph, hc.ecode⟩ hr
  refine ⟨{ s.deliver.setInputs rest with rsp := rsp, ERR := err, ECODE := code, faultLog := log },
    ⟨hph, hlt, k, ?_⟩, rfl⟩
  exact { ha with run := ⟨n + 1, hrun.command hc hr hin hexec⟩, ecode := hcode }

/-- PUSH appends its byte to the message (40 R144). -/
theorem Absorbed.push {s₀ s : State} {msg : List Byte} {k : Nat} (h : Absorbed s₀ msg k s) (hph : s.PH = .absorb)
    (hlt : s.CNT.toNat < 64) {b : Byte} {rest : List HostInput} (hin : s.inputs = .command (encode (.push b)) :: rest) :
    ∃ t, Absorbed s₀ (msg ++ [b]) k t ∧ t.inputs = rest ∧ t.CNT = s.CNT + 1 ∧
      t.PH = if s.CNT = 63 then .parse else .absorb := by
  obtain ⟨n, hrun⟩ := h.run
  have hc : s.CodesAssigned := ⟨by simp [hph], h.ecode⟩
  have hexec := pushAppendsMessageByte b (s.deliver.setInputs rest) hlt ⟨hc.ph, hc.ecode⟩ hph
  have hrun' := hrun.command hc (.inr (.inl hph)) hin hexec
  have hlen := h.cnt
  have hblocks : firstBlocks (msg ++ [b]) k = firstBlocks msg k := firstBlocks_append _ (by omega)
  have hcnt := toNat_cnt_add_one hlt
  rw [← hblocks] at hrun'
  refine ⟨_, ⟨⟨n + 1, hrun'⟩, h.fin, h.ecode, ?len, ?cnt, ?chain, ?buf⟩, rfl, rfl, rfl⟩
  case len =>
    rw [List.length_append, List.length_singleton, Nat.mul_add, BitVec.ofNat_add, ← h.len]
    rfl
  case cnt =>
    change _ = 64 * k + (s.CNT + 1).toNat
    rw [List.length_append, List.length_singleton, hcnt, hlen, Nat.add_assoc]
  case chain =>
    rw [hblocks]
    exact h.chain
  case buf =>
    have hbuf := h.buf.set hlen hlt b
    rwa [← hcnt] at hbuf

/-- The compression of a full buffer (44 R230). -/
theorem Absorbed.compressed {s₀ s : State} {msg : List Byte} {k : Nat} (h : Absorbed s₀ msg k s) (hph : s.PH = .parse)
    (hfull : s.CNT = 64) (hw : HostWaits s.inputs) : Absorbed s₀ msg (k + 1) (compressed s) := by
  obtain ⟨n, hrun⟩ := h.run
  have hlen := h.cnt
  have hbuf := h.buf
  rw [hfull] at hbuf
  have hblock : s.BUF = Algorithm.block msg k := hbuf.eq_block
  constructor
  case run =>
    rw [firstBlocks_succ, ← hblock]
    exact ⟨n + 66, hrun.trans (.compression ⟨by simp [hph], h.ecode⟩ hph hw)⟩
  case chain => rw [compressed_chain, hblock, h.chain, firstBlocks_succ, List.foldl_concat]
  case cnt =>
    rw [hlen, hfull, compressed_CNT]
    rfl
  case buf =>
    rw [compressed_CNT]
    exact .zero _ _ _
  all_goals simp [h.fin, h.ecode, h.len]

/-- PUSH leaves the message open, once the block it may have filled is compressed (40 R144, R145). -/
theorem Open.push {s₀ s : State} {msg : List Byte} (h : Open s₀ msg s) {b : Byte} {rest : List HostInput}
    (hin : s.inputs = .command (encode (.push b)) :: rest) (hw : HostWaits rest) :
    ∃ t, Open s₀ (msg ++ [b]) t ∧ t.inputs = rest := by
  obtain ⟨hph, hlt, k, ha⟩ := h
  obtain ⟨u, hu, hinu, hcnt, hphu⟩ := ha.push hph hlt hin
  by_cases hfull : s.CNT = 63
  · rw [if_pos hfull] at hphu
    have hcu := hu.compressed hphu (by rw [hcnt, hfull]; rfl) (hinu ▸ hw)
    exact ⟨compressed u, ⟨by simp [hu.fin], by simp, k + 1, hcu⟩, by simp [hinu]⟩
  · rw [if_neg hfull] at hphu
    refine ⟨u, ⟨hphu, ?_, k, hu⟩, hinu⟩
    rw [hcnt]
    bv_omega

/-! ### Streams of commands -/

theorem hostWaits_commandStream (l : List Instr) {rest : List HostInput} (hw : HostWaits rest) :
    HostWaits (commandStream l ++ rest) := by
  cases l with
  | nil => exact hw
  | cons i l => exact .inr ⟨_, _, rfl⟩

theorem pushedBytes_cons (i : Instr) (l : List Instr) : pushedBytes (i :: l) = pushedBytes [i] ++ pushedBytes l := by
  rw [pushedBytes, pushedBytes, pushedBytes, ← List.filterMap_append]
  rfl

/-- One command of the stream: PUSH or a read. -/
theorem Open.command {s₀ s : State} {msg : List Byte} (h : Open s₀ msg s) {i : Instr} (hi : i ≠ .init ∧ i ≠ .final)
    {rest : List HostInput} (hin : s.inputs = .command (encode i) :: rest) (hw : HostWaits rest) :
    ∃ t, Open s₀ (msg ++ pushedBytes [i]) t ∧ t.inputs = rest := by
  obtain ⟨hinit, hfinal⟩ := hi
  cases i with
  | init => exact absurd rfl hinit
  | final => exact absurd rfl hfinal
  | push b => exact h.push hin hw
  | rdbyte k => simpa [pushedBytes] using h.read (.inl ⟨k, rfl⟩) hin
  | rdhex k => simpa [pushedBytes] using h.read (.inr (.inl ⟨k, rfl⟩)) hin
  | rdstat => simpa [pushedBytes] using h.read (.inr (.inr rfl)) hin

theorem Open.commands {s₀ : State} {rest : List HostInput} (hw : HostWaits rest) {l : List Instr}
    (hl : ∀ i ∈ l, i ≠ .init ∧ i ≠ .final) {s : State} {msg : List Byte} (h : Open s₀ msg s)
    (hin : s.inputs = commandStream l ++ rest) : ∃ t, Open s₀ (msg ++ pushedBytes l) t ∧ t.inputs = rest := by
  induction l generalizing s msg with
  | nil => exact ⟨s, by simpa [pushedBytes] using h, hin⟩
  | cons i l ih =>
    obtain ⟨hi, hl⟩ := List.forall_mem_cons.mp hl
    obtain ⟨u, hu, huin⟩ := h.command hi hin (hostWaits_commandStream l hw)
    rw [pushedBytes_cons, ← List.append_assoc]
    exact ih hl hu huin

/-- Settles O44: INIT opens the empty message, and each command of the stream leaves it open with its byte added. -/
theorem pushedBytesAreCountedAndCompressed : Obligations.PushedBytesAreCountedAndCompressed := by
  intro l s rest hc hr hl hin hw
  obtain ⟨u, hu, huin⟩ := Open.init hc hr hin
  obtain ⟨t, ⟨hph, hlt, k, ht⟩, htin⟩ := hu.commands hw hl huin
  rw [List.nil_append] at ht
  obtain ⟨n, hrun⟩ := ht.run
  have hlen := ht.cnt
  obtain rfl : k = (pushedBytes l).length / 64 := by omega
  have hcnt : t.CNT.toNat = (pushedBytes l).length % 64 := by omega
  refine ⟨n, t, hrun.run, htin, hph, ht.len, hcnt, ?_⟩
  rw [blocks_eq_firstBlocks]
  exact ⟨hrun.parsed, ht.chain, hcnt ▸ ht.buf⟩

end Sys2Proof.Machine
end

section
/-! PROOF. FINAL and PAD (spec/41_padding.md): the whole next state of each, O15 and O27. -/

namespace Sys2Proof.Machine

/-- Settles O15: FINAL is permitted in ABSORB, and CNT leaves room for its byte. -/
theorem finalStartsPadding : Obligations.FinalStartsPadding := by
  intro s hlt hc hph
  have hp : Permitted .final s.PH := hph
  exact (exec_permitted hc (.inr (.inl hph)) hp).trans (finalEffect_of_lt hlt)

/-! ### The bytes PAD writes -/

/-- PAD writes zeros from CNT on, up to the length field or, where that has no room, to the end of the block (41 R162). -/
theorem padByte_zero (buf : Vector Byte 64) {cnt : BitVec 7} (len : LenWord) {j : Fin 64} (hge : cnt.toNat ≤ j.val)
    (h : 56 < cnt.toNat ∨ j.val < 56) : padByte buf cnt len j = 0x00#8 := by
  have hkept : ¬ j.val < cnt.toNat := Nat.not_lt.mpr hge
  rcases h with hgt | hlt
  · simp [padByte, hkept, Nat.not_le.mpr hgt]
  · simp [padByte, hkept, hlt]

/-- Where the length field has room, PAD writes its bytes, low-order byte first (41 R162). -/
theorem padByte_length (buf : Vector Byte 64) {cnt : BitVec 7} (len : LenWord) {j : Fin 64} (hle : cnt.toNat ≤ 56)
    (hj : 56 ≤ j.val) : padByte buf cnt len j = byteOf len (j.val - 56) := by
  unfold padByte
  rw [if_pos hle, if_neg (Nat.not_lt.mpr (hle.trans hj)), if_neg (Nat.not_lt.mpr hj)]

theorem microPad_BUF_getElem (s : State) (j : Fin 64) : (microPad s).BUF[j] = padByte s.BUF s.CNT s.LEN j := by
  simp

theorem lengthPlaced_eq_ite (cnt : BitVec 7) (lenw : Bool) :
    lengthPlaced cnt lenw = if cnt.toNat ≤ 56 then true else lenw := by
  by_cases h : cnt.toNat ≤ 56
  · rw [if_pos h, lengthPlaced_of_le lenw h]
  · rw [if_neg h, lengthPlaced_of_gt lenw (Nat.not_le.mp h)]

/-- Settles O27: the step is PAD's micro-step, and each byte of BUF is one of the three kinds `padByte` tells apart. -/
theorem padCompletesBlock : Obligations.PadCompletesBlock := by
  intro s hc hph hn
  have hstep := step_busy_noReset hc (busy_eq_true.mpr (.inl hph)) hn
  rw [microStep_pad (s := s.deliver.setInputs _) hph] at hstep
  have hbyte := microPad_BUF_getElem (s.deliver.setInputs (heldStream s.inputs))
  refine ⟨_, hstep, ?frame, fun j hj => ?kept, fun hle => ⟨fun j hge hlt => ?zero, fun k => ?length⟩, fun hgt j hge => ?fill⟩
  case frame =>
    rw [← lengthPlaced_eq_ite]
    rfl
  case kept => exact (hbyte j).trans (padByte_of_lt _ _ hj)
  case zero => exact (hbyte j).trans (padByte_zero _ _ hge (.inr hlt))
  case fill => exact (hbyte j).trans (padByte_zero _ _ hge (.inl hgt))
  case length =>
    have hfield := (hbyte ⟨56 + k.val, by omega⟩).trans (padByte_length _ _ hle (Nat.le_add_right 56 k.val))
    rw [Nat.add_sub_cancel_left] at hfield
    exact (congrArg BitVec.toNat hfield).trans (toNat_byteOf _ _)

end Sys2Proof.Machine
end

section
/-! PROOF. The padded message as a byte list (41 R160, R163): its bytes by place, its length, and O43. -/

namespace Sys2Proof.Algorithm

open Sys2Proof.Machine

/-! ### The number of zeros -/

theorem zeros_lt (L : Nat) : zeros L < 64 := Nat.mod_lt _ (by decide)

theorem add_zeros_mod (L : Nat) : (L + 1 + zeros L) % 64 = 56 := by
  unfold zeros
  omega

/-- No smaller number of zeros does: two that both do differ by a multiple of 64. -/
theorem zeros_le {L y : Nat} (h : (L + 1 + y) % 64 = 56) : zeros L ≤ y := by
  have hlt := zeros_lt L
  have hmod := add_zeros_mod L
  omega

/-! ### The length field -/

@[simp] theorem length_lengthField (L : Nat) : (lengthField L).length = 8 := by simp [lengthField]

/-- Byte k of the length field is `byte(LEN64, k)` (41 R160). -/
theorem lengthField_getD (L : Nat) {k : Nat} (hk : k < 8) :
    (lengthField L).getD k 0 = byteOf (BitVec.ofNat 64 (8 * L)) k := by
  have hget : (lengthField L).getD k 0 = BitVec.ofNat 8 (8 * L % 2 ^ 64 / 256 ^ k) := by
    simp [lengthField, hk]
  apply BitVec.eq_of_toNat_eq
  rw [hget, toNat_byteOf, BitVec.toNat_ofNat, BitVec.toNat_ofNat, Nat.pow_mul]

/-! ### The padded message -/

@[simp] theorem length_pad (msg : List Byte) : (pad msg).length = msg.length + 1 + zeros msg.length + 8 := by
  simp only [pad, List.length_append, List.length_replicate, List.length_singleton, length_lengthField]

/-- The padded message goes on after the message and 0x80. -/
theorem pad_eq_append (msg : List Byte) :
    pad msg = msg ++ [0x80#8] ++ (List.replicate (zeros msg.length) 0x00#8 ++ lengthField msg.length) :=
  List.append_assoc _ _ _

theorem pad_getD_zero {msg : List Byte} {i : Nat} (hge : msg.length + 1 ≤ i)
    (hlt : i < msg.length + 1 + zeros msg.length) : (pad msg).getD i 0 = 0x00#8 := by
  rw [pad_eq_append, List.getD_append_right _ _ _ _ (by simpa), List.getD_append _ _ _ _ (by simp; omega)]
  exact List.getD_replicate _ (by simp; omega)

theorem pad_getD_length (msg : List Byte) {k : Nat} (hk : k < 8) :
    (pad msg).getD (msg.length + 1 + zeros msg.length + k) 0 = byteOf (BitVec.ofNat 64 (8 * msg.length)) k := by
  have hfront : (msg ++ [0x80#8] ++ List.replicate (zeros msg.length) 0x00#8).length =
      msg.length + 1 + zeros msg.length := by
    simp only [List.length_append, List.length_replicate, List.length_singleton]
  rw [pad, ← hfront, List.getD_append_right _ _ _ _ (Nat.le_add_right _ _), Nat.add_sub_cancel_left,
    lengthField_getD _ hk]

/-! ### The number of blocks -/

@[simp] theorem length_blocks (bytes : List Byte) : (blocks bytes).length = bytes.length / 64 := by simp [blocks]

/-- Settles O43: everything about the lengths follows from z being below 64 and L + 1 + z being 56 modulo 64. -/
theorem paddedMessageIsWholeBlocks : Obligations.PaddedMessageIsWholeBlocks := by
  intro msg L z
  have hlt : z < 64 := zeros_lt L
  have hmod : (L + 1 + z) % 64 = 56 := add_zeros_mod L
  have hpad : (pad msg).length = L + 1 + z + 8 := length_pad msg
  have hfield (k : Fin 8) : ((lengthField L).getD k.val 0).toNat = 8 * L % 2 ^ 64 / 2 ^ (8 * k.val) % 256 := by
    rw [lengthField_getD L k.isLt, toNat_byteOf, BitVec.toNat_ofNat]
  have hleast (y : Nat) (hy : y < z) : (L + 1 + y) % 64 ≠ 56 := fun h => Nat.not_le.mpr hy (zeros_le h)
  refine ⟨⟨lengthField L, length_lengthField L, rfl, hfield⟩, hlt, hmod, hleast, ?_⟩
  rw [length_blocks, hpad]
  refine ⟨by omega, ?_, rfl, by omega⟩
  split <;> omega

end Sys2Proof.Algorithm
end

section
/-! PROOF. A message from INIT to DONE (41 R165): what the engine holds of the padded message while PAD completes it, and
O45. -/

namespace Sys2Proof.Machine

/-! ### Runs and the invariants -/

/-- The invariants of the reachable states hold along a run from any state that meets them (10 R49). -/
theorem Inv_of_run {n : Nat} {s t : State} (h : runFor n s = .next t) (hs : s.Inv) : t.Inv := by
  induction n generalizing s with
  | zero =>
    cases h
    exact hs
  | succ n ih =>
    rw [runFor_step] at h
    cases hstep : step s with
    | next u =>
      rw [hstep, andThen_next] at h
      exact ih h ((transition_of_step hstep).inv hs)
    | fault | refused =>
      rw [hstep] at h
      cases h

/-- The state INIT leads to meets the invariants, whatever the state before, and a run from it has the empty message open
(40 R141). -/
theorem ParsingRun.init {s : State} {rest : List HostInput} (hc : s.CodesAssigned) (hr : s.Ready)
    (hi : s.inputs = .command (encode .init) :: rest) :
    ∃ u, ParsingRun 1 s [] u ∧ u.Inv ∧ Open u [] u ∧ u.inputs = rest := by
  obtain ⟨-, -, hinit⟩ := initOpensMessage
  obtain ⟨u, hexec, rfl, -⟩ := hinit (s.deliver.setInputs rest) ⟨hc.ph, hc.ecode⟩ hr
  refine ⟨_, (ParsingRun.refl s).command hc hr hi hexec, ?inv, ⟨rfl, by simp, 0, ?absorbed⟩, rfl⟩
  case inv => exact Inv_of_absorb ⟨by simp, by simp⟩ rfl (Nat.zero_le _) rfl rfl
  case absorbed => exact ⟨⟨0, .refl _⟩, rfl, by simp, rfl, rfl, rfl, .zero _ _ _⟩

/-! ### The block PAD completes -/

/-- Bytes after those the buffer holds do not show in it. -/
theorem HoldsBytes.append {buf : Vector Byte 64} {msg : List Byte} {k n : Nat} (h : HoldsBytes buf msg k n)
    (hlen : 64 * k + n ≤ msg.length) (l : List Byte) : HoldsBytes buf (msg ++ l) k n := by
  intro j hj
  rw [h j hj, List.getD_append _ _ _ _ (by omega)]

/-- PAD completes the padded message's block k, when CNT stands among the zeros of step 2b or at their end (41 R162). -/
theorem HoldsBytes.padded {buf : Vector Byte 64} {msg : List Byte} {k : Nat} {cnt : BitVec 7}
    (h : HoldsBytes buf (Algorithm.pad msg) k cnt.toNat) (hge : msg.length + 1 ≤ 64 * k + cnt.toNat)
    (hle : 64 * k + cnt.toNat ≤ msg.length + 1 + Algorithm.zeros msg.length) :
    HoldsBytes (Vector.ofFn (padByte buf cnt (BitVec.ofNat 64 (8 * msg.length)))) (Algorithm.pad msg) k 64 := by
  have hlt := Algorithm.zeros_lt msg.length
  have hmod := Algorithm.add_zeros_mod msg.length
  intro j _
  have hbyte (f : Fin 64 → Byte) : (Vector.ofFn f)[j] = f j := by simp
  rw [hbyte]
  rcases Nat.lt_or_ge j.val cnt.toNat with hkept | hnew
  · rw [padByte_of_lt _ _ hkept, h j hkept]
  by_cases hzero : 56 < cnt.toNat ∨ j.val < 56
  · rw [padByte_zero _ _ hnew hzero, Algorithm.pad_getD_zero (by omega) (by omega)]
  · rw [not_or, Nat.not_lt, Nat.not_lt] at hzero
    obtain ⟨hroom, hfield⟩ := hzero
    have hplace : 64 * k + j.val = msg.length + 1 + Algorithm.zeros msg.length + (j.val - 56) := by omega
    rw [padByte_length _ _ hroom hfield, hplace, Algorithm.pad_getD_length _ (by omega)]

/-! ### From FINAL to DONE -/

/-- A run from `s₀` has come to `t`, where PAD is next: k blocks of the padded message are parsed, and BUF holds the bytes of
block k below CNT, which stands after 0x80 and not after the zeros (41 R162). -/
structure Padding (s₀ : State) (msg : List Byte) (k : Nat) (t : State) : Prop where
  run : ∃ n, ParsingRun n s₀ (firstBlocks (Algorithm.pad msg) k) t
  ph : t.PH = .pad
  fin : t.FIN = true
  lenw : t.LENW = false
  ecode : t.ECODE ≠ .code3
  len : t.LEN = BitVec.ofNat 64 (8 * msg.length)
  cnt : t.CNT.toNat ≤ 64
  marked : msg.length + 1 ≤ 64 * k + t.CNT.toNat
  short : 64 * k + t.CNT.toNat ≤ msg.length + 1 + Algorithm.zeros msg.length
  buf : HoldsBytes t.BUF (Algorithm.pad msg) k t.CNT.toNat

/-- FINAL appends 0x80 and starts the padding (41 R161). -/
theorem Absorbed.final {s₀ s : State} {msg : List Byte} {k : Nat} (h : Absorbed s₀ msg k s) (hph : s.PH = .absorb)
    (hlt : s.CNT.toNat < 64) (hlenw : s.LENW = false) {rest : List HostInput}
    (hin : s.inputs = .command (encode .final) :: rest) : ∃ t, Padding s₀ msg k t ∧ t.inputs = rest := by
  obtain ⟨n, hrun⟩ := h.run
  have hc : s.CodesAssigned := ⟨by simp [hph], h.ecode⟩
  have hexec := finalStartsPadding (s.deliver.setInputs rest) hlt ⟨hc.ph, hc.ecode⟩ hph
  have hrun' := hrun.command hc (.inr (.inl hph)) hin hexec
  have hlen := h.cnt
  have hcnt := toNat_cnt_add_one hlt
  have hblocks : firstBlocks (Algorithm.pad msg) k = firstBlocks msg k := by
    rw [Algorithm.pad_eq_append, List.append_assoc]
    exact firstBlocks_append _ (by omega)
  have hbuf := (h.buf.set hlen hlt 0x80#8).append (by simp; omega)
    (List.replicate (Algorithm.zeros msg.length) 0x00#8 ++ Algorithm.lengthField msg.length)
  rw [← hcnt, ← Algorithm.pad_eq_append] at hbuf
  rw [← hblocks] at hrun'
  have hmarked : 64 * k + (s.CNT + 1).toNat = msg.length + 1 := by omega
  exact ⟨_, ⟨⟨n + 1, hrun'⟩, rfl, rfl, hlenw, h.ecode, h.len, hcnt.trans_le hlt, hmarked.ge,
    hmarked.le.trans (Nat.le_add_right _ _), hbuf⟩, rfl⟩

/-- PAD and the compression of the block it completes, for a host that waits. -/
theorem Padding.compression {s₀ s : State} {msg : List Byte} {k : Nat} (h : Padding s₀ msg k s)
    (hw : HostWaits s.inputs) :
    ∃ n, ParsingRun n s₀ (firstBlocks (Algorithm.pad msg) (k + 1)) (compressed (microPad s.deliver)) := by
  obtain ⟨n, hrun⟩ := h.run
  have hstep : step s = .next (microPad s.deliver) := by
    rw [step_busy ⟨by simp [h.ph], h.ecode⟩ (busy_eq_true.mpr (.inl h.ph)) hw]
    exact congrArg _ (microStep_pad (s := s.deliver) h.ph)
  have hblock : (microPad s.deliver).BUF = Algorithm.block (Algorithm.pad msg) k := by
    rw [microPad_BUF, State.deliver_BUF, State.deliver_CNT, State.deliver_LEN, h.len]
    exact (h.buf.padded h.marked h.short).eq_block
  have hpad : ParsingRun 1 s [] (microPad s.deliver) := .of_step hstep (by simp [h.ph])
  have hcompress := ParsingRun.compression (s := microPad s.deliver) ⟨by simp, by simpa using h.ecode⟩ (by simp)
    (by simpa using hw)
  rw [firstBlocks_succ, ← hblock]
  exact ⟨_, hrun.trans (hpad.trans hcompress)⟩

/-- Where the length field has room, that block is the last (41 R162). -/
theorem Padding.last {s₀ s : State} {msg : List Byte} {k : Nat} (h : Padding s₀ msg k s) (hw : HostWaits s.inputs)
    (hroom : s.CNT.toNat ≤ 56) :
    (compressed (microPad s.deliver)).PH = .done ∧
      ∃ n, ParsingRun n s₀ (Algorithm.blocks (Algorithm.pad msg)) (compressed (microPad s.deliver)) := by
  have hblocks : (Algorithm.pad msg).length / 64 = k + 1 := by
    have hlt := Algorithm.zeros_lt msg.length
    have hmod := Algorithm.add_zeros_mod msg.length
    have hmarked := h.marked
    have hshort := h.short
    rw [Algorithm.length_pad]
    omega
  rw [blocks_eq_firstBlocks, hblocks]
  exact ⟨by simp [h.fin, lengthPlaced_of_le _ hroom], h.compression hw⟩

/-- Where it has none, the padding goes on in the next block (41 R162, 44 R230). -/
theorem Padding.next {s₀ s : State} {msg : List Byte} {k : Nat} (h : Padding s₀ msg k s) (hw : HostWaits s.inputs)
    (hfull : 56 < s.CNT.toNat) : Padding s₀ msg (k + 1) (compressed (microPad s.deliver)) := by
  have hlt := Algorithm.zeros_lt msg.length
  have hmod := Algorithm.add_zeros_mod msg.length
  have hle := h.cnt
  have hmarked := h.marked
  have hshort := h.short
  have hcnt : (compressed (microPad s.deliver)).CNT.toNat = 0 := by simp
  have hlenw : lengthPlaced s.CNT s.LENW = false := (lengthPlaced_of_gt _ hfull).trans h.lenw
  constructor
  case run => exact h.compression hw
  case buf =>
    rw [hcnt]
    exact .zero _ _ _
  case cnt | marked | short => omega
  all_goals simp [h.fin, h.ecode, h.len, hlenw]

/-- From PAD the engine comes to DONE, after one block or two (41 R163). -/
theorem Padding.done {s₀ s : State} {msg : List Byte} {k : Nat} (h : Padding s₀ msg k s) (hw : HostWaits s.inputs) :
    ∃ n t, ParsingRun n s₀ (Algorithm.blocks (Algorithm.pad msg)) t ∧ t.inputs = s.inputs ∧ t.PH = .done := by
  rcases Nat.lt_or_ge 56 s.CNT.toNat with hfull | hroom
  · have hnext := h.next hw hfull
    obtain ⟨hph, n, hrun⟩ := hnext.last (by simpa using hw) (by simp)
    exact ⟨n, _, hrun, by simp, hph⟩
  · obtain ⟨hph, n, hrun⟩ := h.last hw hroom
    exact ⟨n, _, hrun, by simp, hph⟩

@[simp] theorem pushedBytes_map_push (msg : List Byte) : pushedBytes (msg.map .push) = msg := by
  simp [pushedBytes, List.filterMap_map]

/-- Settles O45: after INIT the pushed bytes stay open until FINAL, and from there PAD completes the padded message. -/
theorem parsedBlocksArePaddedMessage : Obligations.ParsedBlocksArePaddedMessage := by
  intro msg s rest hc hr hin hw
  have hstream : commandStream ([.init] ++ msg.map .push ++ [.final]) ++ rest =
      .command (encode .init) :: (commandStream (msg.map .push) ++ .command (encode .final) :: rest) := by
    simp [commandStream]
  have hpush : ∀ i ∈ msg.map Instr.push, i ≠ .init ∧ i ≠ .final := by simp
  obtain ⟨u, hinit, hinv, hu, huin⟩ := ParsingRun.init hc hr (hin.trans hstream)
  obtain ⟨v, ⟨hph, hlt, k, hv⟩, hvin⟩ := hu.commands (.inr ⟨_, _, rfl⟩) hpush huin
  rw [List.nil_append, pushedBytes_map_push] at hv
  obtain ⟨m, hrun⟩ := hv.run
  obtain ⟨-, -, hlenw⟩ := (Inv_of_run hrun.run hinv).absorb hph
  obtain ⟨x, hx, hxin⟩ := hv.final hph hlt hlenw hvin
  obtain ⟨n, t, hdone, htin, hdph⟩ := hx.done (hxin ▸ hw)
  have hall := hinit.trans hdone
  exact ⟨1 + n, t, hall.run, htin.trans hxin, hdph, hall.parsed⟩

end Sys2Proof.Machine
end

section
/-! PROOF. PARSE (spec/42_block_parser.md): the whole next state, the words by value and the bytes of BUF from them, O28. -/

namespace Sys2Proof.Machine

theorem microParse_W_getElem (s : State) (j : Fin 16) : (microParse s).W[j] = blockWord s.BUF j := by
  simp

/-- The inverse view of the parse: byte k of word j is the byte of BUF it was read from (42 R181). -/
theorem byteOf_blockWord (buf : Vector Byte 64) (j : Fin 16) (k : Fin 4) :
    byteOf (blockWord buf j) k.val = buf[4 * j.val + k.val] := by
  have hbyte := byteOf_le32 #v[buf[4 * j.val], buf[4 * j.val + 1], buf[4 * j.val + 2], buf[4 * j.val + 3]] k
  refine hbyte.trans ?_
  match k with
  | 0 | 1 | 2 | 3 => rfl

/-- Settles O28: the step is PARSE's micro-step, and its word j is the little-endian word of four bytes of BUF. -/
theorem parseSplitsBlock : Obligations.ParseSplitsBlock := by
  intro s hc hph hn
  have hstep := step_busy_noReset hc (busy_eq_true.mpr (.inr (.inl hph))) hn
  rw [microStep_parse (s := s.deliver.setInputs _) hph] at hstep
  have hword := microParse_W_getElem (s.deliver.setInputs (heldStream s.inputs))
  refine ⟨_, hstep, rfl, fun j => ?value, fun j k => ?inverse⟩
  case value => exact (congrArg BitVec.toNat (hword j)).trans (toNat_le32 _ _ _ _)
  case inverse =>
    rw [hword j, byteOf_blockWord]
    rfl

end Sys2Proof.Machine
end

section
/-! PROOF. The round-function datapath (spec/43_round_function.md): its units, O7, O8, O9 and O11; the micro-step ROUND, O29;
and the compression of a block, O41. -/

namespace Sys2Proof.Machine

/-! ### The left rotator (43 R196) -/

theorem getLsbD_rotl (x : Word) {n j : Nat} (hn : n < 32) (hj : j < 32) :
    (rotl x n).getLsbD ((j + n) % 32) = x.getLsbD j := by
  rw [rotl_eq_rotateLeft x hn, BitVec.getLsbD_rotateLeft_of_le hn]
  by_cases hwrap : j + n < 32
  · simp [Nat.mod_eq_of_lt hwrap, hwrap]
  · have hmod : (j + n) % 32 = j + n - 32 := by omega
    have hsource : 32 - n + (j + n - 32) = j := by omega
    have hlow : j + n - 32 < n := by omega
    rw [hmod, decide_eq_true hlow, cond_true, hsource]

/-- Settles O7: a bit either stays below bit 32 or wraps round to its low end. -/
theorem rotatorMovesEveryBit : Obligations.RotatorMovesEveryBit := by
  refine ⟨fun x _ _ hn hj => getLsbD_rotl x hn hj, fun _ => if_pos rfl, fun i => ?_⟩
  revert i; decide

/-! ### The logical functions, bit by bit (43 R198) -/

section
variable (b c d : Word) {j : Nat}

theorem getLsbD_F0 (hj : j < 32) : (F0 b c d).getLsbD j = if b.getLsbD j then c.getLsbD j else d.getLsbD j := by
  rw [F0, BitVec.getLsbD_or, BitVec.getLsbD_and, BitVec.getLsbD_and, BitVec.getLsbD_not]
  cases b.getLsbD j <;> simp [hj]

/-- F1 is F0 with its selecting operand last. -/
theorem F1_eq_F0 : F1 b c d = F0 d b c := rfl

theorem getLsbD_F2 : (F2 b c d).getLsbD j = (b.getLsbD j ^^ c.getLsbD j ^^ d.getLsbD j) := by
  rw [F2, BitVec.getLsbD_xor, BitVec.getLsbD_xor]

theorem getLsbD_F3 (hj : j < 32) : (F3 b c d).getLsbD j = (c.getLsbD j ^^ (b.getLsbD j || !d.getLsbD j)) := by
  rw [F3, BitVec.getLsbD_xor, BitVec.getLsbD_or, BitVec.getLsbD_not, decide_eq_true hj, Bool.true_and]

theorem F0_same : F0 b c c = c :=
  BitVec.eq_of_getLsbD_eq fun j hj => by rw [getLsbD_F0 b c c hj, ite_self]

theorem F2_same : F2 b b d = d := by
  rw [F2, BitVec.xor_self, BitVec.zero_xor]

end

/-- Settles O8: F0, F2 and F3 by their bits, F1 as F0 with the operands turned, and the listed values by evaluation. -/
theorem logicalFunctionsBitwise : Obligations.LogicalFunctionsBitwise := by
  refine ⟨fun b c d j hj => ?bits, fun b c d => ⟨F0_same b c, F2_same b d⟩, by decide, ?ones⟩
  case bits => exact ⟨getLsbD_F0 b c d hj, getLsbD_F0 d b c hj, getLsbD_F2 b c d, getLsbD_F3 b c d hj⟩
  case ones =>
    rintro _ rfl
    decide

/-! ### The round-control tables (43 R191, R194, R199) -/

/-- Settles O9: the orders are finitely many values of g, and so are the counts. -/
theorem messageWordOrderPerGroup : Obligations.MessageWordOrderPerGroup := by
  refine ⟨?_, ?_, ?_, ?_, ?_, ?_⟩ <;> decide

/-- Settles O11: the table of the model against the list of the rule, at each of the 64 indices. -/
theorem shiftAmountsFollowPattern : Obligations.ShiftAmountsFollowPattern := by
  unfold Obligations.ShiftAmountsFollowPattern
  decide

/-! ### The micro-step ROUND (43 R197) -/

theorem nextRound_eq_ite (i : BitVec 6) : nextRound i = if i.toNat = 63 then i else i + 1 := by
  simp only [nextRound, ← BitVec.toNat_inj]
  rfl

theorem phaseAfterRound_eq_ite (i : BitVec 6) (p : Phase) :
    phaseAfterRound i p = if i.toNat = 63 then .accum else p := by
  simp only [phaseAfterRound, ← BitVec.toNat_inj]
  rfl

/-- A round with the function, the index and the rotation of the source. -/
theorem roundStep_eq (i : BitVec 6) (W : Vector Word 16) (q : Quad) :
    roundStep i W q = ⟨q.d, q.b + (Algorithm.nonlinear i.toNat q.b q.c q.d + q.a + roundConst i +
      W.toList.getD (Algorithm.wordIndex i.toNat) 0).rotateLeft (shiftAmount i), q.b, q.c⟩ := by
  have hword : W.toList.getD (Algorithm.wordIndex i.toNat) 0 = W[(gidx i).toNat]'(gidx i).isLt := by
    rw [← toNat_gidx, List.getD_eq_getElem _ _ (by simp [(gidx i).isLt]), Vector.getElem_toList]
  rw [roundStep, adder4, muxF_eq_nonlinear, rotl_eq_rotateLeft _ (shiftAmount_lt i), hword]

/-- Settles O29: the step is ROUND's micro-step, whose round and sequencer are the source's. -/
theorem roundUpdatesWorkingRegisters : Obligations.RoundUpdatesWorkingRegisters := by
  intro s hc hph hn
  have hstep := step_busy_noReset hc (busy_eq_true.mpr (.inr (.inr (.inl hph)))) hn
  have hround : (s.deliver.setInputs (heldStream s.inputs)).PH = .round := hph
  rw [microStep_round hround, microRound, roundStep_eq, nextRound_eq_ite, phaseAfterRound_eq_ite, hround] at hstep
  exact hstep

/-! ### The compression of a block (70 R300) -/

theorem phaseAfterAccum_eq_ite (fin lenw : Bool) :
    phaseAfterAccum fin lenw = if fin = false then .absorb else if lenw = true then .done else .pad := by
  cases fin <;> cases lenw <;> rfl

/-- PARSE, any number of rounds and ACCUM leave all but the datapath, RND, CNT, PH and the response as it was. -/
theorem microAccum_roundsDone_frame (s : State) (k : Nat) {t : State}
    (ht : t = microAccum (roundsDone (microParse s.deliver) k)) :
    t = { s with
      A := t.A, B := t.B, C := t.C, D := t.D, a := t.a, b := t.b, c := t.c, d := t.d, W := t.W, RND := t.RND,
      CNT := 0, PH := phaseAfterAccum s.FIN s.LENW, rsp := none, responses := s.responses ++ s.rsp.toList } := by
  subst ht
  rfl

/-- Settles O41: the run, its chaining value and its frame are those of `compressed`. -/
theorem compressionIsSourceCompression : Obligations.CompressionIsSourceCompression := by
  intro s hc hph hw
  have hframe := microAccum_roundsDone_frame s 64 (t := compressed s) rfl
  rw [phaseAfterAccum_eq_ite] at hframe
  exact ⟨compressed s, (ParsingRun.compression hc hph hw).run, compressed_chain s, hframe⟩

end Sys2Proof.Machine
end

section
/-! PROOF. The T ROM and the real sine (43 R190), O10: sin n is the imaginary part of the n-th power of e^i, and e^i is a
Gaussian integer over 19! to within 2^-60, so that exact integer arithmetic decides the 64 floors. -/

namespace Sys2Proof.Machine

/-! ### Powers of e^i -/

/-- The error of a power, for numbers of the unit disc. -/
theorem norm_pow_sub_pow_le {z w : ℂ} (hz : ‖z‖ ≤ 1) (hw : ‖w‖ ≤ 1) (n : ℕ) : ‖z ^ n - w ^ n‖ ≤ n * ‖z - w‖ := by
  induction n with
  | zero => simp
  | succ n ih =>
    have hwn : ‖w ^ n‖ ≤ 1 := (norm_pow w n).trans_le (pow_le_one₀ (norm_nonneg w) hw)
    calc ‖z ^ (n + 1) - w ^ (n + 1)‖ = ‖z * (z ^ n - w ^ n) + (z - w) * w ^ n‖ := by ring_nf
      _ ≤ ‖z‖ * ‖z ^ n - w ^ n‖ + ‖z - w‖ * ‖w ^ n‖ := by
        simpa only [norm_mul] using norm_add_le (z * (z ^ n - w ^ n)) ((z - w) * w ^ n)
      _ ≤ 1 * (n * ‖z - w‖) + ‖z - w‖ * 1 := by gcongr
      _ = (n + 1 : ℕ) * ‖z - w‖ := by push_cast; ring

theorem im_exp_I_pow (n : ℕ) : (Complex.exp Complex.I ^ n).im = Real.sin n := by
  rw [← Complex.exp_nat_mul, ← Complex.exp_ofReal_mul_I_im, Complex.ofReal_natCast]

/-! ### A rational approximation of e^i -/

/-- 19! times the first 20 terms of the exponential series at i, which are a Gaussian integer. -/
def expITaylor : GaussianInt := ⟨65725128248453315, 102360822438075317⟩

/-- The first 20 terms of the exponential series at i. -/
noncomputable def expIApprox : ℂ := (expITaylor : ℂ) / (Nat.factorial 19 : ℕ)

theorem expIApprox_eq_sum : expIApprox = ∑ m ∈ Finset.range 20, Complex.I ^ m / m.factorial := by
  simp [Finset.sum_range_succ, Nat.factorial, expIApprox, expITaylor, GaussianInt.toComplex_def, pow_succ]
  ring

theorem norm_exp_I_sub_expIApprox_le : ‖Complex.exp Complex.I - expIApprox‖ ≤ 1 / 2 ^ 60 := by
  rw [expIApprox_eq_sum]
  refine (Complex.exp_bound Complex.norm_I.le (by decide)).trans ?_
  norm_num [Nat.factorial]

theorem norm_expIApprox_le_one : ‖expIApprox‖ ≤ 1 := by
  have hnorm : expITaylor.norm ≤ (Nat.factorial 19 : ℤ) ^ 2 := by decide
  have hsq : ‖(expITaylor : ℂ)‖ ^ 2 ≤ ((Nat.factorial 19 : ℕ) : ℝ) ^ 2 := by
    rw [← Complex.normSq_eq_norm_sq, ← GaussianInt.intCast_real_norm]
    exact_mod_cast hnorm
  rw [expIApprox, norm_div, Complex.norm_natCast]
  exact div_le_one_of_le₀ (abs_le_of_sq_le_sq' hsq (by positivity)).2 (by positivity)

theorem im_expIApprox_pow (n : ℕ) :
    (expIApprox ^ n).im = (expITaylor ^ n).im / (Nat.factorial 19 : ℝ) ^ n := by
  rw [expIApprox, div_pow, ← map_pow, ← Nat.cast_pow, Complex.div_natCast_im, ← GaussianInt.intCast_im, Nat.cast_pow]

/-- The sines of 1 to 64, to within 2^-54. -/
theorem abs_sin_sub_le {n : ℕ} (hn : n ≤ 64) :
    |Real.sin n - (expITaylor ^ n).im / (Nat.factorial 19 : ℝ) ^ n| ≤ 1 / 2 ^ 54 := by
  have hpow := norm_pow_sub_pow_le (Complex.norm_exp_I_mul_ofReal 1).le norm_expIApprox_le_one n
  rw [Complex.ofReal_one, mul_one] at hpow
  calc |Real.sin n - (expITaylor ^ n).im / (Nat.factorial 19 : ℝ) ^ n|
      = |(Complex.exp Complex.I ^ n - expIApprox ^ n).im| := by
        rw [Complex.sub_im, im_exp_I_pow, im_expIApprox_pow]
    _ ≤ ‖Complex.exp Complex.I ^ n - expIApprox ^ n‖ := Complex.abs_im_le_norm _
    _ ≤ n * ‖Complex.exp Complex.I - expIApprox‖ := hpow
    _ ≤ 64 * (1 / 2 ^ 60) := by
        gcongr
        · exact_mod_cast hn
        · exact norm_exp_I_sub_expIApprox_le
    _ = 1 / 2 ^ 54 := by norm_num

/-! ### The 64 floors -/

/-- Each ROM word is the floor of the approximate sine times 2^32, with 2^-22 to spare on both sides. -/
theorem romT_brackets_expITaylor (k : Fin 64) :
    (romT[k].toNat * 2 ^ 22 + 1) * Nat.factorial 19 ^ (k.val + 1) ≤ (expITaylor ^ (k.val + 1)).im.natAbs * 2 ^ 54 ∧
    (expITaylor ^ (k.val + 1)).im.natAbs * 2 ^ 54 + Nat.factorial 19 ^ (k.val + 1) <
      (romT[k].toNat + 1) * 2 ^ 22 * Nat.factorial 19 ^ (k.val + 1) := by
  revert k; decide

/-- The floor of a real number's size times 2^32, from a fraction within 2^-54 of it. -/
theorem floor_abs_mul_eq {x : ℝ} {p : ℤ} {q t : ℕ} (hq : 0 < q) (hx : |x - p / q| ≤ 1 / 2 ^ 54)
    (hle : (t * 2 ^ 22 + 1) * q ≤ p.natAbs * 2 ^ 54) (hlt : p.natAbs * 2 ^ 54 + q < (t + 1) * 2 ^ 22 * q) :
    ⌊|x| * 2 ^ 32⌋ = t := by
  have hq' : (0 : ℝ) < q := by exact_mod_cast hq
  have hp : |(p : ℝ) / q| = p.natAbs / q := by rw [abs_div, Nat.abs_cast, Nat.cast_natAbs, Int.cast_abs]
  have hsize := (abs_abs_sub_abs_le x (p / q)).trans hx
  rw [hp, abs_le] at hsize
  have hbelow : (t : ℝ) * 2 ^ 22 + 1 ≤ p.natAbs / q * 2 ^ 54 := by
    rw [div_mul_eq_mul_div, le_div_iff₀ hq']
    exact_mod_cast hle
  have habove : (p.natAbs : ℝ) / q * 2 ^ 54 + 1 < (t + 1) * 2 ^ 22 := by
    rw [div_mul_eq_mul_div, div_add_one hq'.ne', div_lt_iff₀ hq']
    exact_mod_cast hlt
  rw [Int.floor_eq_iff, Int.cast_natCast]
  constructor <;> linarith

/-- Settles O10: the sine of i + 1 is near enough to its fraction over a power of 19! for the floors to agree. -/
theorem roundConstantsAreSines : Obligations.RoundConstantsAreSines := by
  intro i
  obtain ⟨hle, hlt⟩ := romT_brackets_expITaylor i.toFin
  have hsin := abs_sin_sub_le (n := i.toNat + 1) i.isLt
  rw [← Nat.cast_pow, Nat.cast_add_one] at hsin
  exact (floor_abs_mul_eq (Nat.pow_pos (Nat.factorial_pos 19)) hsin hle hlt).symm

end Sys2Proof.Machine
end

section
/-! PROOF. The output formatter (44 R231, R232) against steps 5 and 6 of the source, the three reads and the micro-step
ACCUM: O16, O17, O18, O30 and O47. -/

namespace Sys2Proof.Machine

/-! ### The formatter's bytes and characters -/

/-- Step 5's byte of a word, by division, is `byte(x, k)`. -/
theorem ofNat_div_eq_byteOf {n : Nat} (x : BitVec n) (k : Nat) : BitVec.ofNat 8 (x.toNat / 256 ^ k) = byteOf x k := by
  apply BitVec.eq_of_toNat_eq
  rw [toNat_byteOf, BitVec.toNat_ofNat, Nat.pow_mul]

/-- DB lists the bytes of step 5 (44 R231). -/
theorem digestBytes_eq_map (q : Quad) : Algorithm.digestBytes q = (List.range 16).map (digestByte q) := by
  simp only [Algorithm.digestBytes, ofNat_div_eq_byteOf]
  rfl

/-- The character of a nibble is the hexadecimal digit of its value (44 R232). -/
theorem hexOfNibble_eq_getD (n : BitVec 4) : hexOfNibble n = Algorithm.hexDigits.getD n.toNat 0 := by
  revert n; decide

/-- Step 6's two characters of a byte are those of its nibbles, the high one first. -/
theorem renderHex_cons (x : Byte) (l : List Byte) : Algorithm.renderHex (x :: l) =
    hexOfNibble (x.extractLsb' 4 4) :: hexOfNibble (x.extractLsb' 0 4) :: Algorithm.renderHex l := by
  have hhigh : (x.extractLsb' 4 4).toNat = x.toNat / 16 := by
    rw [BitVec.extractLsb'_toNat, Nat.shiftRight_eq_div_pow]
    omega
  have hlow : (x.extractLsb' 0 4).toNat = x.toNat % 16 := by
    rw [BitVec.extractLsb'_toNat, Nat.shiftRight_zero]
  rw [hexOfNibble_eq_getD, hexOfNibble_eq_getD, hhigh, hlow]
  rfl

/-- HEX lists the characters of step 6 (44 R232). -/
theorem renderHex_digestBytes (q : Quad) :
    Algorithm.renderHex (Algorithm.digestBytes q) = (List.range 32).map (hexChar q) := by
  rw [digestBytes_eq_map]
  simp only [List.range_succ, List.range_zero, List.nil_append, List.cons_append, List.map_cons, List.map_nil,
    renderHex_cons]
  rfl

/-! ### The reads in DONE -/

theorem exec_rdbyte {s : State} (hc : s.CodesAssigned) (hph : s.PH = .done) (k : BitVec 4) :
    exec (.rdbyte k) s = .next (s.respond (digestByte s.chain k.toNat)) :=
  exec_permitted (i := .rdbyte k) hc (.inr (.inr hph)) hph

theorem exec_rdhex {s : State} (hc : s.CodesAssigned) (hph : s.PH = .done) (k : BitVec 5) :
    exec (.rdhex k) s = .next (s.respond (hexChar s.chain k.toNat)) :=
  exec_permitted (i := .rdhex k) hc (.inr (.inr hph)) hph

/-- Settles O16: RDBYTE is permitted in DONE, and DB is the source's list of digest bytes. -/
theorem rdbyteAnswersDigestByte : Obligations.RdbyteAnswersDigestByte := by
  intro k s hc hph
  have hbyte : (Algorithm.digestBytes s.chain).getD k.toNat 0 = digestByte s.chain k.toNat := by
    simp [digestBytes_eq_map, k.isLt]
  rw [exec_rdbyte hc hph, ← hbyte]
  rfl

/-- Settles O17: RDHEX is permitted in DONE, and HEX is the source's rendering of the digest bytes. That a character is its
ASCII code is the spec's decision D8 (notes/assumptions/10.md). -/
theorem rdhexAnswersHexCharacter : Obligations.RdhexAnswersHexCharacter := by
  intro k s hc hph
  have hchar : (Algorithm.renderHex (Algorithm.digestBytes s.chain)).getD k.toNat 0 = hexChar s.chain k.toNat := by
    simp [renderHex_digestBytes, k.isLt]
  rw [exec_rdhex hc hph, ← hchar]
  rfl

/-- Settles O18: RDSTAT is permitted in each of the three phases, none of which is busy. -/
theorem rdstatAnswersStatus : Obligations.RdstatAnswersStatus := by
  intro s hc hr
  obtain ⟨hready, -⟩ := status_fields s
  exact ⟨exec_permitted (i := .rdstat) hc hr trivial, by rw [hready, busy_eq_false_of_ready hr]; rfl⟩

/-! ### The characters of the digest -/

theorem hexOfNibble_lowercase (n : BitVec 4) :
    (0x30 ≤ (hexOfNibble n).toNat ∧ (hexOfNibble n).toNat ≤ 0x39) ∨
    (0x61 ≤ (hexOfNibble n).toNat ∧ (hexOfNibble n).toNat ≤ 0x66) := by
  revert n; decide

/-- The digest is what the formatter gives for the final chaining value. -/
theorem digest_eq_map (msg : List Byte) :
    Algorithm.digest msg = (List.range 32).map (hexChar (Algorithm.finalState msg)) :=
  renderHex_digestBytes _

/-- Settles O47: every character, of the digest and of the formatter, is that of a nibble. The ranges are ASCII codes by the
spec's decision D8 (notes/assumptions/10.md). -/
theorem digestIsLowercaseHex : Obligations.DigestIsLowercaseHex := by
  refine ⟨fun msg => ?_, fun q k => hexOfNibble_lowercase _⟩
  rw [digest_eq_map]
  refine ⟨by simp, fun x hx => ?_⟩
  obtain ⟨k, -, rfl⟩ := List.mem_map.mp hx
  exact hexOfNibble_lowercase _

/-! ### The micro-step ACCUM (44 R230) -/

/-- Settles O30: the step is ACCUM's micro-step, whose next phase is the one FIN and LENW select. -/
theorem accumFoldsCompression : Obligations.AccumFoldsCompression := by
  intro s hc hph hn
  have hstep := step_busy_noReset hc (busy_eq_true.mpr (.inr (.inr (.inr hph)))) hn
  rw [microStep_accum (s := s.deliver.setInputs _) hph, microAccum, phaseAfterAccum_eq_ite] at hstep
  exact hstep

end Sys2Proof.Machine
end

section
/-! PROOF. The contract of the digest (44 R236), O46: what a message's run leaves on show and in the chaining registers, and
the 32 reads after it. -/

namespace Sys2Proof.Machine

/-! ### A run only consumes the host's stream -/

theorem exists_step_of_run {n : Nat} {s t : State} (h : runFor (n + 1) s = .next t) :
    ∃ u, step s = .next u ∧ runFor n u = .next t := by
  rw [runFor_step] at h
  cases hstep : step s with
  | next u => exact ⟨u, rfl, by simpa [hstep] using h⟩
  | fault | refused => simp [hstep] at h

/-- No command's effect touches the stream. -/
theorem effectOf_inputs {i : Instr} {s t : State} (h : effectOf i s = .next t) : t.inputs = s.inputs := by
  cases i with
  | init | rdbyte | rdhex | rdstat => cases h; rfl
  | push b => obtain ⟨hlt, rfl⟩ := pushEffect_cases h; rfl
  | final => obtain ⟨hlt, rfl⟩ := finalEffect_cases h; rfl

theorem acceptWord_inputs {w : CmdWord} {s t : State} (h : acceptWord w s = .next t) : t.inputs = s.inputs := by
  obtain ⟨why, -, rfl⟩ | ⟨i, -, he⟩ := acceptWord_cases h
  · rfl
  · obtain ⟨-, ⟨-, rfl⟩ | ⟨-, -, rfl⟩ | ⟨-, -, he⟩⟩ := exec_cases he
    · rfl
    · rfl
    · exact effectOf_inputs he

theorem heldStream_suffix (l : List HostInput) : heldStream l <:+ l := by
  match l with
  | [] | .command _ :: _ | .reset :: _ => exact List.suffix_rfl
  | .idle :: rest => exact List.suffix_cons _ rest

theorem step_inputs_suffix {s t : State} (h : step s = .next t) : t.inputs <:+ s.inputs := by
  obtain ⟨rest, hi, rfl⟩ | ⟨hc, hn, ⟨hb, -⟩ | ⟨-, w, rest, hi, ht⟩ | ⟨hb, l, hi, -⟩⟩ := step_cases h
  · simp [hi]
  · rw [step_busy_noReset hc hb hn] at h
    cases h
    simpa using heldStream_suffix s.inputs
  · simp [acceptWord_inputs ht, hi]
  · match hin : s.inputs with
    | [] =>
      rw [step_no_input hc hb hin] at h
      cases h
      simp [hin]
    | .idle :: rest =>
      rw [step_idle hc hb hin] at h
      cases h
      simp
    | .command w :: rest => exact absurd hin (hi w rest)
    | .reset :: rest => simp [hin] at hn

theorem run_inputs_suffix {n : Nat} {s t : State} (h : runFor n s = .next t) : t.inputs <:+ s.inputs := by
  induction n generalizing s with
  | zero =>
    cases h
    exact List.suffix_rfl
  | succ n ih =>
    obtain ⟨u, hstep, hrun⟩ := exists_step_of_run h
    exact (ih hrun).trans (step_inputs_suffix hstep)

theorem codesAssigned_of_step {s t : State} (h : step s = .next t) (hn : NoReset s.inputs) : s.CodesAssigned := by
  obtain ⟨rest, hi, -⟩ | ⟨hc, -⟩ := step_cases h
  · simp [NoReset, hi] at hn
  · exact hc

/-- An engine that is ready takes the word at its port at the next step, so a longer run no longer has the word before it. -/
theorem le_of_run_ready {m n : Nat} {s t u : State} {w : CmdWord} {rest : List HostInput} (ht : runFor n s = .next t)
    (hr : t.Ready) (htin : t.inputs = .command w :: rest) (hu : runFor m s = .next u)
    (huin : u.inputs = .command w :: rest) : m ≤ n := by
  by_contra hlt
  obtain ⟨j, rfl⟩ : ∃ j, m = n + (j + 1) := ⟨m - n - 1, by omega⟩
  rw [runFor_add, ht, andThen_next] at hu
  obtain ⟨v, hstep, hrun⟩ := exists_step_of_run hu
  have hc := codesAssigned_of_step hstep (by simp [NoReset, htin])
  rw [step_accept hc (busy_eq_false_of_ready hr) htin] at hstep
  have hsuffix := (run_inputs_suffix hrun).length_le
  simp [acceptWord_inputs hstep, huin] at hsuffix

/-- Two runs from one state that have come to the same word, the engine ready, have read the same blocks. -/
theorem ParsingRun.blocks_unique {m n : Nat} {s t u : State} {bs bs' : List (Vector Byte 64)} {w : CmdWord}
    {rest : List HostInput} (ht : ParsingRun n s bs t) (htr : t.Ready) (htin : t.inputs = .command w :: rest)
    (hu : ParsingRun m s bs' u) (hur : u.Ready) (huin : u.inputs = .command w :: rest) : bs = bs' := by
  have hle : m ≤ n := le_of_run_ready ht.run htr htin hu.run huin
  have hge : n ≤ m := le_of_run_ready hu.run hur huin ht.run htin
  rw [← ht.parsed, ← hu.parsed, Nat.le_antisymm hle hge]

/-! ### What a message's run keeps -/

/-- A run from s to t parses the blocks `bs` and compresses them into the chaining registers, shows no response, and makes no
command error. -/
structure QuietRun (s : State) (bs : List (Vector Byte 64)) (t : State) : Prop where
  run : ∃ n, ParsingRun n s bs t
  chain : t.chain = bs.foldl Algorithm.compress s.chain
  faultLog : t.faultLog = s.faultLog
  err : t.ERR = s.ERR
  observed : t.observed = s.observed

theorem QuietRun.refl (s : State) : QuietRun s [] s := ⟨⟨0, .refl s⟩, rfl, rfl, rfl, rfl⟩

theorem QuietRun.trans {s t u : State} {bs bs' : List (Vector Byte 64)} (h : QuietRun s bs t) (h' : QuietRun t bs' u) :
    QuietRun s (bs ++ bs') u where
  run := by
    obtain ⟨m, hm⟩ := h.run
    obtain ⟨n, hn⟩ := h'.run
    exact ⟨m + n, hm.trans hn⟩
  chain := by rw [List.foldl_append, ← h.chain, h'.chain]
  faultLog := h'.faultLog.trans h.faultLog
  err := h'.err.trans h.err
  observed := h'.observed.trans h.observed

theorem QuietRun.inv {s t : State} {bs : List (Vector Byte 64)} (h : QuietRun s bs t) (hs : s.Inv) : t.Inv := by
  obtain ⟨n, hn⟩ := h.run
  exact Inv_of_run hn.run hs

/-- A compression (70 R300). -/
theorem QuietRun.compression {s : State} (hc : s.CodesAssigned) (hph : s.PH = .parse) (hw : HostWaits s.inputs) :
    QuietRun s [s.BUF] (compressed s) where
  run := ⟨66, .compression hc hph hw⟩
  chain := compressed_chain s
  faultLog := by simp [compressed, roundsDone]
  err := by simp [compressed, roundsDone]
  observed := by simp [compressed, roundsDone, State.observed]

/-- PUSH, and the compression of the block it may have filled (40 R144). -/
theorem QuietRun.push {s : State} (hs : s.Inv) (hph : s.PH = .absorb) {b : Byte} {rest : List HostInput}
    (hin : s.inputs = .command (encode (.push b)) :: rest) (hw : HostWaits rest) :
    ∃ bs t, QuietRun s bs t ∧ t.PH = .absorb ∧ t.inputs = rest := by
  obtain ⟨hcnt, hfin, -⟩ := hs.absorb hph
  have hc := Inv_codesAssigned hs
  have hexec := pushAppendsMessageByte b (s.deliver.setInputs rest) (Nat.lt_succ_of_le hcnt) ⟨hc.ph, hc.ecode⟩ hph
  have hrun := (ParsingRun.refl s).command hc (.inr (.inl hph)) hin hexec
  have hquiet : QuietRun s [] _ := ⟨⟨_, hrun⟩, rfl, rfl, rfl, by simp [State.observed]⟩
  by_cases hfull : s.CNT = 63
  · have hcompress := QuietRun.compression (Inv_codesAssigned (hquiet.inv hs)) (if_pos hfull) hw
    exact ⟨_, _, hquiet.trans hcompress, by simp [hfin], by simp⟩
  · exact ⟨_, _, hquiet, if_neg hfull, rfl⟩

/-- The PUSH commands of a message. -/
theorem QuietRun.pushes {rest : List HostInput} (hw : HostWaits rest) (msg : List Byte) {s : State} (hs : s.Inv)
    (hph : s.PH = .absorb) (hin : s.inputs = commandStream (msg.map .push) ++ rest) :
    ∃ bs t, QuietRun s bs t ∧ t.PH = .absorb ∧ t.inputs = rest := by
  induction msg generalizing s with
  | nil => exact ⟨[], s, .refl s, hph, hin⟩
  | cons b msg ih =>
    obtain ⟨bs, u, hu, huph, huin⟩ := QuietRun.push hs hph hin (hostWaits_commandStream _ hw)
    obtain ⟨bs', t, ht, htph, htin⟩ := ih (hu.inv hs) huph huin
    exact ⟨bs ++ bs', t, hu.trans ht, htph, htin⟩

/-- FINAL starts the padding (41 R161). -/
theorem QuietRun.final {s : State} (hs : s.Inv) (hph : s.PH = .absorb) {rest : List HostInput}
    (hin : s.inputs = .command (encode .final) :: rest) : ∃ t, QuietRun s [] t ∧ t.PH = .pad ∧ t.inputs = rest := by
  obtain ⟨hcnt, -, -⟩ := hs.absorb hph
  have hc := Inv_codesAssigned hs
  have hexec := finalStartsPadding (s.deliver.setInputs rest) (Nat.lt_succ_of_le hcnt) ⟨hc.ph, hc.ecode⟩ hph
  have hrun := (ParsingRun.refl s).command hc (.inr (.inl hph)) hin hexec
  exact ⟨_, ⟨⟨_, hrun⟩, rfl, rfl, rfl, by simp [State.observed]⟩, rfl, rfl⟩

/-- PAD and the compression of the block it completes (41 R162). -/
theorem QuietRun.padBlock {s : State} (hs : s.Inv) (hph : s.PH = .pad) (hw : HostWaits s.inputs) :
    QuietRun s [(microPad s.deliver).BUF] (compressed (microPad s.deliver)) := by
  have hstep : step s = .next (microPad s.deliver) := by
    rw [step_busy (Inv_codesAssigned hs) (busy_eq_true.mpr (.inl hph)) hw]
    exact congrArg _ (microStep_pad (s := s.deliver) hph)
  have hpad : QuietRun s [] (microPad s.deliver) :=
    ⟨⟨1, .of_step hstep (by simp [hph])⟩, by simp, by simp, by simp, by simp [State.observed]⟩
  exact hpad.trans (.compression (Inv_codesAssigned (hpad.inv hs)) (by simp) (by simpa using hw))

/-- From PAD to DONE: where the length field has no room, PAD comes again with an empty buffer (41 R163). -/
theorem QuietRun.padding {s : State} (hs : s.Inv) (hph : s.PH = .pad) (hw : HostWaits s.inputs) :
    ∃ bs t, QuietRun s bs t ∧ t.PH = .done ∧ t.inputs = s.inputs := by
  have last {u : State} (hu : u.Inv) (huph : u.PH = .pad) (hroom : u.CNT.toNat ≤ 56) :
      (compressed (microPad u.deliver)).PH = .done := by
    obtain ⟨hfin, -, -⟩ := hu.pad huph
    simp [hfin, lengthPlaced_of_le _ hroom]
  have hblock := QuietRun.padBlock hs hph hw
  rcases Nat.lt_or_ge 56 s.CNT.toNat with hfull | hroom
  · obtain ⟨hfin, hlenw, -⟩ := hs.pad hph
    have hnext : (compressed (microPad s.deliver)).PH = .pad := by simp [hfin, hlenw, lengthPlaced_of_gt _ hfull]
    have hinv := hblock.inv hs
    have hsecond := QuietRun.padBlock hinv hnext (by simpa using hw)
    exact ⟨_, _, hblock.trans hsecond, last hinv hnext (by simp), by simp⟩
  · exact ⟨_, _, hblock, last hs hph hroom, by simp⟩

/-- INIT opens a message without an error and shows nothing, whatever the state before (40 R141). -/
theorem step_init {s : State} {rest : List HostInput} (hc : s.CodesAssigned) (hr : s.Ready)
    (hi : s.inputs = .command (encode .init) :: rest) :
    ∃ u, step s = .next u ∧ u.Inv ∧ u.PH = .absorb ∧ u.inputs = rest ∧ u.chain = iv ∧ u.faultLog = s.faultLog ∧
      u.ERR = false ∧ u.observed = s.observed := by
  have hstep := step_encode hc hr hi
  rw [exec_init (s := s.deliver.setInputs rest) ⟨hc.ph, hc.ecode⟩ hr] at hstep
  refine ⟨_, hstep, ?inv, rfl, rfl, rfl, rfl, rfl, ?observed⟩
  case inv => exact Inv_of_absorb ⟨by simp, by simp⟩ rfl (Nat.zero_le _) rfl rfl
  case observed => simp [State.observed]

/-- The commands of a message before the reads. -/
def messageCommands (msg : List Byte) : List Instr := [.init] ++ msg.map .push ++ [.final]

/-- From INIT to DONE the chaining registers come to hold the final state of steps 2 to 4, with no response shown and no
error made: the blocks the run has compressed are, by O45, those of the padded message. -/
theorem exists_run_message {msg : List Byte} {s : State} {w : CmdWord} {rest : List HostInput} (hc : s.CodesAssigned)
    (hr : s.Ready) (hin : s.inputs = commandStream (messageCommands msg) ++ .command w :: rest) :
    ∃ n t, runFor n s = .next t ∧ t.Inv ∧ t.PH = .done ∧ t.inputs = .command w :: rest ∧
      t.chain = Algorithm.finalState msg ∧ t.faultLog = s.faultLog ∧ t.ERR = false ∧ t.observed = s.observed := by
  have hw : HostWaits (.command w :: rest) := .inr ⟨_, _, rfl⟩
  have hstream : commandStream (messageCommands msg) ++ .command w :: rest = .command (encode .init) ::
      (commandStream (msg.map .push) ++ .command (encode .final) :: .command w :: rest) := by
    simp [messageCommands, commandStream]
  obtain ⟨u, hinit, hinv, hph, huin, hchain, hlog, herr, hobs⟩ := step_init hc hr (hin.trans hstream)
  obtain ⟨bs₁, v, hpush, hvph, hvin⟩ := QuietRun.pushes (.inr ⟨_, _, rfl⟩) msg hinv hph huin
  have hvinv := hpush.inv hinv
  obtain ⟨x, hfinal, hxph, hxin⟩ := QuietRun.final hvinv hvph hvin
  obtain ⟨bs₂, t, hpad, htph, htin⟩ := QuietRun.padding (hfinal.inv hvinv) hxph (hxin ▸ hw)
  have hquiet := (hpush.trans hfinal).trans hpad
  obtain ⟨n, hrun⟩ := hquiet.run
  have hall := (ParsingRun.of_step hinit (ph_ne_parse_of_ready hr)).trans hrun
  obtain ⟨m, y, hyrun, hyin, hyph, hyparsed⟩ := parsedBlocksArePaddedMessage msg s _ hc hr hin hw
  have hblocks := hall.blocks_unique (.inr (.inr htph)) (htin.trans hxin) ⟨hyrun, hyparsed⟩ (.inr (.inr hyph)) hyin
  refine ⟨1 + n, t, hall.run, hquiet.inv hinv, htph, htin.trans hxin, ?_, hquiet.faultLog.trans hlog,
    hquiet.err.trans herr, hquiet.observed.trans hobs⟩
  rw [hquiet.chain, hchain, Algorithm.finalState, ← hblocks, List.nil_append]

/-! ### The reads of the digest -/

/-- RDHEX commands in DONE answer a character each, and change nothing else that shows (44 R234). -/
theorem run_rdhex (ks : List (BitVec 5)) {s : State} {rest : List HostInput} (hc : s.CodesAssigned) (hph : s.PH = .done)
    (hin : s.inputs = commandStream (ks.map .rdhex) ++ rest) :
    ∃ t, runFor ks.length s = .next t ∧ t.inputs = rest ∧ t.PH = .done ∧ t.faultLog = s.faultLog ∧ t.ERR = s.ERR ∧
      t.observed = s.observed ++ ks.map fun k => hexChar s.chain k.toNat := by
  induction ks generalizing s with
  | nil => exact ⟨s, rfl, hin, hph, rfl, rfl, by simp⟩
  | cons k ks ih =>
    have hc' : (s.deliver.setInputs (commandStream (ks.map .rdhex) ++ rest)).CodesAssigned := ⟨hc.ph, hc.ecode⟩
    obtain ⟨t, hrun, htin, htph, hlog, herr, hobs⟩ := ih (codesAssigned_respond hc' (hexChar s.chain k.toNat)) hph rfl
    have hstep := (step_encode hc (.inr (.inr hph)) hin).trans (exec_rdhex hc' hph k)
    refine ⟨t, (runFor_succ hstep).trans hrun, htin, htph, hlog, herr, hobs.trans ?_⟩
    simp [State.observed]

/-- The indices RDHEXALL reads, 0 to 31 (30 R112). -/
def hexIndices : List (BitVec 5) := (List.range 32).map (BitVec.ofNat 5)

theorem allHexReads_eq_map : allHexReads = hexIndices.map .rdhex := rfl

/-- The characters at those indices are all that the formatter gives. -/
theorem map_hexIndices (q : Quad) : (hexIndices.map fun k => hexChar q k.toNat) = (List.range 32).map (hexChar q) := by
  rw [hexIndices, List.map_map]
  refine List.map_congr_left fun k hk => ?_
  rw [Function.comp_apply, BitVec.toNat_ofNat, Nat.mod_eq_of_lt (List.mem_range.mp hk)]

/-- Settles O46: the message's run leaves the final chaining value, and the reads spell it. That the characters are ASCII
codes is the spec's decision D8 (notes/assumptions/10.md). -/
theorem hashCommandsAnswerDigest : Obligations.HashCommandsAnswerDigest := by
  intro msg s rest hc hr hin
  have hstream : commandStream (Pseudo.hash msg).expand ++ rest =
      commandStream (messageCommands msg) ++ (commandStream (hexIndices.map .rdhex) ++ rest) := by
    simp [Pseudo.expand, messageCommands, commandStream, allHexReads_eq_map]
  obtain ⟨n, u, hmessage, hinv, hph, huin, hchain, hlog, herr, hobs⟩ := exists_run_message hc hr (hin.trans hstream)
  obtain ⟨t, hreads, htin, htph, htlog, hterr, htobs⟩ := run_rdhex hexIndices (Inv_codesAssigned hinv) hph huin
  refine ⟨n + hexIndices.length, t, ?run, htin, htph, htlog.trans hlog, hterr.trans herr, ?digest⟩
  case run => rw [runFor_add, hmessage, andThen_next, hreads]
  case digest => rw [htobs, hobs, hchain, map_hexIndices, ← digest_eq_map]

end Sys2Proof.Machine
end

section
/-! PROOF. Acceptance and command errors (spec/60_exceptions.md): the command an accepted word runs, what a command error
does and what keeps or clears its record, the legality table, and that no reachable state stops. O19, O21, O25, O26, O20
and O38. -/

namespace Sys2Proof.Machine

/-! ### An accepted word -/

/-- Settles O19: a word that decodes to a command is the encoder's word for it. -/
theorem stepRunsDecodedCommand : Obligations.StepRunsDecodedCommand := by
  intro s w rest i ⟨hc, hr, hi⟩ hd
  obtain rfl := eq_encode_of_decode hd
  exact step_encode hc hr hi

/-- A step that accepts a malformed word raises the error MALFORMED (60 R262, R263). -/
theorem step_malformed {s : State} {w : CmdWord} {rest : List HostInput} {why : MalformedReason} (ha : s.accepts w rest)
    (hd : decode w = .malformed why) : step s = .next (raiseCmdError w .malformed (s.deliver.setInputs rest)) := by
  obtain ⟨hc, hr, hi⟩ := ha
  rw [step_accept hc (busy_eq_false_of_ready hr) hi, acceptWord, hd]

/-- A step that accepts a command its phase does not permit raises the error PHASE (60 R262, R263). -/
theorem step_not_permitted {s : State} {w : CmdWord} {rest : List HostInput} {i : Instr} (ha : s.accepts w rest)
    (hd : decode w = .command i) (hp : ¬ Permitted i s.PH) :
    step s = .next (raiseCmdError w .phase (s.deliver.setInputs rest)) := by
  obtain rfl := eq_encode_of_decode hd
  obtain ⟨hc, hr, hi⟩ := ha
  exact (step_encode hc hr hi).trans (exec_not_permitted ⟨hc.ph, hc.ecode⟩ hr hp)

theorem firstCause_eq_ite (c : ECode) (e : CmdError) : firstCause c e = if c = .noError then e.code else c := by
  split
  · next h => rw [h, firstCause_noError]
  · next h => exact firstCause_of_ne e h

/-- Settles O21: for either cause the step is `raiseCmdError` on the state whose stream has moved past the word. -/
theorem commandErrorDoesExactlyThis : Obligations.CommandErrorDoesExactlyThis := by
  intro s w rest e ha hcause
  have hstep : step s = .next (raiseCmdError w e (s.deliver.setInputs rest)) := by
    obtain ⟨rfl, why, hd⟩ | ⟨rfl, i, hd, hp⟩ := hcause
    · exact step_malformed ha hd
    · exact step_not_permitted ha hd hp
  refine ⟨_, hstep, fun hw => by simp [hw], fun hw => by simp [hw], ?_⟩
  rw [raiseCmdError, firstCause_eq_ite]
  rfl

/-! ### The record of errors over steps -/

/-- While ERR = 1 a transition keeps ERR and ECODE, unless it is a reset or INIT, which clear both (60 R267). -/
theorem Transition.error_kept_or_cleared {s t : State} (h : Transition s t) (herr : s.ERR = true)
    (hecode : s.ECODE ≠ .noError) :
    (t.ERR = true ∧ t.ECODE = s.ECODE) ∨
    (t.ERR = false ∧ t.ECODE = .noError ∧
      ((∃ rest, s.inputs = .reset :: rest) ∨ ∃ rest, s.accepts (encode .init) rest)) := by
  cases h with
  | reset rest hi => exact .inr ⟨rfl, rfl, .inl ⟨rest, hi⟩⟩
  | init rest ha => exact .inr ⟨rfl, rfl, .inr ⟨rest, ha⟩⟩
  | malformed | phaseError => exact .inl ⟨rfl, firstCause_of_ne _ hecode⟩
  | _ => exact .inl (by simp [herr])

/-- Settles O25: by the invariants ECODE holds a cause while ERR = 1, so a further error keeps it. -/
theorem onlyInitAndResetClearErrors : Obligations.OnlyInitAndResetClearErrors := by
  intro s t hs h herr
  have hecode : s.ECODE ≠ .noError := fun hnone => by simp [hs.ecode_err.mp hnone] at herr
  exact (transition_of_step h).error_kept_or_cleared herr hecode

/-- A transition appends its command error, if it is one, to the fault log, and changes nothing else there (60 R268). -/
theorem Transition.faultLog_append {s t : State} (h : Transition s t) :
    ∃ l, t.faultLog = s.faultLog ++ l ∧ l.length ≤ 1 := by
  cases h with
  | malformed => exact ⟨[.malformed], rfl, le_rfl⟩
  | phaseError => exact ⟨[.phase], rfl, le_rfl⟩
  | _ => exact ⟨[], by simp, Nat.zero_le 1⟩

theorem run_faultLog_prefix {n : Nat} {s t : State} (h : runFor n s = .next t) : s.faultLog <+: t.faultLog := by
  induction n generalizing s with
  | zero =>
    cases h
    exact List.prefix_rfl
  | succ n ih =>
    obtain ⟨u, hstep, hrun⟩ := exists_step_of_run h
    obtain ⟨l, hlog, -⟩ := (transition_of_step hstep).faultLog_append
    exact List.IsPrefix.trans ⟨l, hlog.symm⟩ (ih hrun)

/-- Settles O26: an error's step is `raiseCmdError`, and every transition only appends. That a reset keeps the log is
the model's deduction (notes/assumptions/5.md). -/
theorem faultLogKeepsEveryError : Obligations.FaultLogKeepsEveryError := by
  refine ⟨fun s t w rest ha h => ⟨fun ⟨why, hd⟩ => ?_, fun i hd hp => ?_⟩,
    fun s t h => (transition_of_step h).faultLog_append, fun n s t => run_faultLog_prefix⟩
  · rw [step_malformed ha hd] at h
    cases h
    rfl
  · rw [step_not_permitted ha hd hp] at h
    cases h
    rfl

/-! ### The legality table -/

/-- The pseudocode of a permitted command goes on: BUF has room for the byte PUSH and FINAL append. -/
theorem exists_effectOf {i : Instr} {s : State} (hroom : s.PH = .absorb → s.CNT.toNat < 64) (hp : Permitted i s.PH) :
    ∃ t, effectOf i s = .next t := by
  cases i with
  | init | rdbyte | rdhex | rdstat => exact ⟨_, rfl⟩
  | push b => exact ⟨_, pushEffect_of_lt b (hroom hp)⟩
  | final => exact ⟨_, finalEffect_of_lt (hroom hp)⟩

/-- No command's effect touches the fault log. -/
theorem effectOf_faultLog {i : Instr} {s t : State} (h : effectOf i s = .next t) : t.faultLog = s.faultLog := by
  cases i with
  | init | rdbyte | rdhex | rdstat => cases h; rfl
  | push b => obtain ⟨hlt, rfl⟩ := pushEffect_cases h; rfl
  | final => obtain ⟨hlt, rfl⟩ := finalEffect_cases h; rfl

/-- Settles O20: the step is the command's effect, the error PHASE, or the engine's micro-step. -/
theorem legalityTableDecidesExecution : Obligations.LegalityTableDecidesExecution := by
  intro i s rest hc hroom hi
  refine ⟨fun hr hp => ?executes, fun hr hp => ?phaseError, fun hb => ?held⟩
  case executes =>
    obtain ⟨t, heffect⟩ := exists_effectOf (s := s.deliver.setInputs rest) hroom hp
    have hexec : exec i (s.deliver.setInputs rest) = _ := exec_permitted ⟨hc.ph, hc.ecode⟩ hr hp
    have hlog : t.faultLog = (s.deliver.setInputs rest).faultLog := effectOf_faultLog heffect
    exact ⟨t, (step_encode hc hr hi).trans (hexec.trans heffect), effectOf_inputs heffect, hlog⟩
  case phaseError => exact ⟨_, step_not_permitted ⟨hc, hr, hi⟩ (decode_encode i) hp, rfl, rfl⟩
  case held => exact ⟨_, step_busy hc hb (.inr ⟨_, _, hi⟩), by simp, by simp⟩

/-! ### No stop -/

/-- Accepting any word goes on: it is a command error, or the effect of a permitted command. -/
theorem exists_step_of_accepts {s : State} {w : CmdWord} {rest : List HostInput} (ha : s.accepts w rest)
    (hroom : s.PH = .absorb → s.CNT.toNat < 64) : ∃ t, step s = .next t := by
  cases hd : decode w with
  | malformed why => exact ⟨_, step_malformed ha hd⟩
  | command i =>
    obtain rfl := eq_encode_of_decode hd
    obtain ⟨hc, hr, hi⟩ := ha
    obtain ⟨hexecutes, hphase, -⟩ := legalityTableDecidesExecution i s rest hc hroom hi
    by_cases hp : Permitted i s.PH
    · exact (hexecutes hr hp).imp fun _ => And.left
    · exact (hphase hr hp).imp fun _ => And.left

/-- Settles O38: the codes are assigned, so nothing is refused, and in ABSORB BUF has room, so nothing faults. -/
theorem noStepStopsFromReachableStates : Obligations.NoStepStopsFromReachableStates := by
  intro s hs
  have hc := Inv_codesAssigned hs
  have hroom : s.PH = .absorb → s.CNT.toNat < 64 := fun hph =>
    have ⟨hle, _, _⟩ := hs.absorb hph
    Nat.lt_succ_of_le hle
  match hi : s.inputs, hb : s.busy with
  | .reset :: rest, _ => exact ⟨_, step_reset hi⟩
  | [], true | .idle :: _, true | .command _ :: _, true =>
    exact ⟨_, step_busy_noReset hc hb (by simp [NoReset, hi])⟩
  | [], false => exact ⟨_, step_no_input hc hb hi⟩
  | .idle :: rest, false => exact ⟨_, step_idle hc hb hi⟩
  | .command w :: rest, false => exact exists_step_of_accepts ⟨hc, ready_of_not_busy hc hb, hi⟩ hroom

end Sys2Proof.Machine
end

section
/-! PROOF. Reset in every state, O35; that no rule reads a value nothing has written (70 R293), O39 and O40. -/

namespace Sys2Proof.Machine

/-- Settles O35: a step with reset asserted is the reset event on the rest of the stream, whatever the state. -/
theorem resetIsTakenInEveryState : Obligations.ResetIsTakenInEveryState := by
  intro s rest hi
  obtain ⟨hph, hfin, hlenw, herr, hecode, hstatus⟩ := resetGivesSpecifiedValues
  exact ⟨_, step_reset hi, hph, hfin, hlenw, herr, hecode, hstatus, rfl, rfl, rfl, rfl⟩

/-! ### Permitted commands -/

/-- A step that accepts a permitted command has the command's effect (60 R260, R261). -/
theorem step_permitted {s : State} {i : Instr} {rest : List HostInput} (ha : s.accepts (encode i) rest)
    (hp : Permitted i s.PH) : step s = effectOf i (s.deliver.setInputs rest) := by
  obtain ⟨hc, hr, hi⟩ := ha
  exact (step_encode hc hr hi).trans (exec_permitted ⟨hc.ph, hc.ecode⟩ hr hp)

theorem pushEffect_of_appendByte {b : Byte} {s t : State} (h : appendByte b s = .next t) :
    pushEffect b s = .next { t with LEN := t.LEN + 8, PH := phaseAfterPush t.CNT t.PH } := by
  rw [pushEffect, h, andThen_next]

theorem finalEffect_of_appendByte {s t : State} (h : appendByte 0x80 s = .next t) :
    finalEffect s = .next { t with FIN := true, PH := .pad } := by
  rw [finalEffect, h, andThen_next]

/-- In ABSORB the buffer has room for one more byte (10 R49). -/
theorem cnt_lt_of_absorb {s : State} (hs : s.Inv) (hph : s.PH = .absorb) : s.CNT.toNat < 64 := by
  obtain ⟨hcnt, -⟩ := hs.absorb hph
  exact Nat.lt_succ_of_le hcnt

/-! ### Buffers that hold the same first bytes -/

/-- Two buffers hold the same bytes below place n. -/
def SameBelow (n : Nat) (u v : Vector Byte 64) : Prop := ∀ j : Fin 64, j.val < n → u[j] = v[j]

section
variable {u v : Vector Byte 64}

theorem SameBelow.zero : SameBelow 0 u v := fun _ hj => absurd hj (Nat.not_lt_zero _)

theorem SameBelow.eq (h : SameBelow 64 u v) : u = v := Vector.ext fun j hj => h ⟨j, hj⟩ hj

/-- Appending one byte to both (20 R71). -/
theorem SameBelow.set {cnt cnt' : BitVec 7} (h : SameBelow cnt.toNat u v) (hcnt : cnt = cnt') (hlt : cnt.toNat < 64)
    (hlt' : cnt'.toNat < 64) (b : Byte) :
    SameBelow (cnt + 1).toNat (u.set cnt.toNat b hlt) (v.set cnt'.toNat b hlt') := by
  subst hcnt
  intro j hj
  rw [toNat_cnt_add_one hlt] at hj
  simp only [Fin.getElem_fin, Vector.getElem_set]
  split
  · rfl
  · exact h j (by omega)

/-- PAD reads the bytes below CNT alone (41 R162). -/
theorem SameBelow.padByte {cnt : BitVec 7} (h : SameBelow cnt.toNat u v) (len : LenWord) :
    padByte u cnt len = padByte v cnt len := by
  funext j
  rcases Nat.lt_or_ge j.val cnt.toNat with hlt | hge
  · rw [padByte_of_lt u len hlt, padByte_of_lt v len hlt, h j hlt]
  · simp [Machine.padByte, Nat.not_lt.mpr hge]

end

/-! ### States that agree on what may be read -/

section
variable {s t : State}

theorem Agree.busy (h : Agree s t) : s.busy = t.busy := congrArg Phase.busy h.ph

theorem Agree.status (h : Agree s t) : s.status = t.status := by
  rw [State.status, State.status, h.busy, h.ph, h.err, h.ecode]

theorem Agree.observed (h : Agree s t) : s.observed = t.observed := by
  rw [State.observed, State.observed, h.responses, h.rsp]

theorem Agree.codesAssigned (h : Agree s t) (hc : s.CodesAssigned) : t.CodesAssigned := by
  obtain ⟨hph, hecode⟩ := hc
  exact ⟨h.ph ▸ hph, h.ecode ▸ hecode⟩

theorem Agree.accepts (h : Agree s t) {w : CmdWord} {rest : List HostInput} (ha : s.accepts w rest) :
    t.accepts w rest := by
  obtain ⟨hc, hr, hi⟩ := ha
  exact ⟨h.codesAssigned hc, by rwa [State.Ready, ← h.ph], h.inputs ▸ hi⟩

/-! ### What every step keeps of the agreement -/

theorem Agree.deliver (h : Agree s t) : Agree s.deliver t.deliver := { h with rsp := rfl, responses := h.observed }

theorem Agree.setInputs (h : Agree s t) (l : List HostInput) : Agree (s.setInputs l) (t.setInputs l) :=
  { h with inputs := rfl }

theorem Agree.respond (h : Agree s t) (v : Byte) : Agree (s.respond v) (t.respond v) := { h with rsp := rfl }

theorem Agree.raiseCmdError (h : Agree s t) (w : CmdWord) (e : CmdError) :
    Agree (raiseCmdError w e s) (raiseCmdError w e t) :=
  { h with
    err := rfl
    ecode := congrArg (firstCause · e) h.ecode
    rsp := by simp only [raiseCmdError_rsp, h.rsp]
    faultLog := congrArg (· ++ [e]) h.faultLog }

theorem Agree.applyReset (h : Agree s t) : Agree (applyReset s) (applyReset t) := by
  constructor <;> simp [h.inputs, h.responses, h.faultLog]

/-! ### The micro-steps -/

section
variable (h : Agree s t)
include h

theorem Agree.microPad (hph : s.PH = .pad) : Agree (microPad s) (microPad t) := by
  obtain ⟨hchain, hcnt, hlen⟩ := h.chain (by simp [hph])
  have hsame : SameBelow s.CNT.toNat s.BUF t.BUF := h.buf (.inr (.inl hph))
  have hbuf : (Machine.microPad s).BUF = (Machine.microPad t).BUF := by
    rw [microPad_BUF, microPad_BUF, hsame.padByte, hcnt, hlen]
  constructor
  case chain => exact fun _ => by simp [hchain, hlen]
  case lenw => simp [hcnt, h.lenw]
  case buf => exact fun _ _ _ => by rw [hbuf]
  all_goals simp [h.fin, h.err, h.ecode, h.inputs, h.rsp, h.responses, h.faultLog]

theorem Agree.microParse (hph : s.PH = .parse) (hfull : s.CNT = 64) : Agree (microParse s) (microParse t) := by
  obtain ⟨hchain, hcnt, hlen⟩ := h.chain (by simp [hph])
  have hsame : SameBelow s.CNT.toNat s.BUF t.BUF := h.buf (.inr (.inr hph))
  rw [hfull] at hsame
  exact { h with
    ph := rfl
    chain := fun _ => ⟨hchain, hcnt, hlen⟩
    buf := by simp
    work := fun _ => hchain
    words := fun _ => by simp [hsame.eq] }

theorem Agree.microRound (hph : s.PH = .round) : Agree (microRound s) (microRound t) := by
  obtain ⟨hwords, hrnd⟩ := h.words hph
  have hnext : (Machine.microRound s).PH = .accum ∨ (Machine.microRound s).PH = .round := by
    rw [microRound_PH, hph]
    exact phaseAfterRound_round_cases s.RND
  exact { h with
    ph := by simp [hrnd, h.ph]
    chain := fun _ => h.chain (by simp [hph])
    buf := fun hbuf => by rcases hnext with hp | hp <;> simp only [hp, reduceCtorEq, or_self] at hbuf
    work := fun _ => by simp [hrnd, hwords, h.work (.inl hph)]
    words := fun _ => ⟨hwords, congrArg nextRound hrnd⟩ }

theorem Agree.microAccum (hph : s.PH = .accum) : Agree (microAccum s) (microAccum t) := by
  obtain ⟨hchain, -, hlen⟩ := h.chain (by simp [hph])
  have hwork := h.work (.inr hph)
  have hnext : (Machine.microAccum s).PH ≠ .round := by
    rw [microAccum_PH]
    cases s.FIN <;> cases s.LENW <;> simp [phaseAfterAccum]
  exact { h with
    ph := by simp [h.fin, h.lenw]
    chain := fun _ => ⟨by simp [hchain, hwork], rfl, hlen⟩
    buf := fun _ => SameBelow.zero
    work := fun _ => hwork
    words := fun hround => absurd hround hnext }

/-- A busy engine's micro-step reads of the datapath only what its phase keeps in use. -/
theorem Agree.microStep (hs : s.Inv) (hb : s.busy = true) : Agree (microStep s) (microStep t) := by
  rcases busy_eq_true.mp hb with hph | hph | hph | hph <;> have hph' := h.ph ▸ hph
  · rw [microStep_pad hph, microStep_pad hph']
    exact h.microPad hph
  · rw [microStep_parse hph, microStep_parse hph']
    exact h.microParse hph (hs.compressing (.inl hph))
  · rw [microStep_round hph, microStep_round hph']
    exact h.microRound hph
  · rw [microStep_accum hph, microStep_accum hph']
    exact h.microAccum hph

/-! ### The commands -/

theorem Agree.initEffect : ∃ s' t', initEffect s = .next s' ∧ initEffect t = .next t' ∧ Agree s' t' :=
  ⟨_, _, rfl, rfl,
    { h with
      ph := rfl
      fin := rfl
      lenw := rfl
      err := rfl
      ecode := rfl
      chain := fun _ => ⟨rfl, rfl, rfl⟩
      buf := fun _ => SameBelow.zero
      work := by simp
      words := by simp }⟩

section
variable (hph : s.PH = .absorb)
include hph

theorem Agree.appendByte (hlt : s.CNT.toNat < 64) (b : Byte) :
    ∃ s' t', appendByte b s = .next s' ∧ appendByte b t = .next t' ∧ Agree s' t' ∧ s'.PH = .absorb := by
  obtain ⟨hchain, hcnt, hlen⟩ := h.chain (by simp [hph])
  have hlt' : t.CNT.toNat < 64 := hcnt ▸ hlt
  have hsame : SameBelow s.CNT.toNat s.BUF t.BUF := h.buf (.inl hph)
  refine ⟨_, _, appendByte_of_lt b hlt, appendByte_of_lt b hlt', ?_, hph⟩
  exact { h with
    chain := fun _ => ⟨hchain, congrArg (· + 1) hcnt, hlen⟩
    buf := fun _ => hsame.set hcnt hlt hlt' b }

/-- What PUSH does after its byte (40 R144). -/
theorem Agree.afterPush : Agree { s with LEN := s.LEN + 8, PH := phaseAfterPush s.CNT s.PH }
    { t with LEN := t.LEN + 8, PH := phaseAfterPush t.CNT t.PH } := by
  obtain ⟨hchain, hcnt, hlen⟩ := h.chain (by simp [hph])
  have hbuf := h.buf (.inl hph)
  have hph' : phaseAfterPush s.CNT s.PH = .parse ∨ phaseAfterPush s.CNT s.PH = .absorb := by
    rw [hph]
    exact (phaseAfterPush_absorb_cases s.CNT).imp And.right And.right
  exact { h with
    ph := by simp only [hcnt, h.ph]
    chain := fun _ => ⟨hchain, hcnt, congrArg (· + 8) hlen⟩
    buf := fun _ => hbuf
    work := fun hwork => by rcases hph' with hp | hp <;> simp [hp] at hwork
    words := fun hround => by rcases hph' with hp | hp <;> simp [hp] at hround }

/-- What FINAL does after its byte (41 R161). -/
theorem Agree.afterFinal : Agree { s with FIN := true, PH := .pad } { t with FIN := true, PH := .pad } :=
  { h with
    ph := rfl
    fin := rfl
    chain := fun _ => h.chain (by simp [hph])
    buf := fun _ => h.buf (.inl hph)
    work := by simp
    words := by simp }

end

/-- A permitted command reads only what its phase keeps in use. -/
theorem Agree.effectOf {i : Instr} (hp : Permitted i s.PH) (hroom : s.PH = .absorb → s.CNT.toNat < 64) :
    ∃ s' t', effectOf i s = .next s' ∧ effectOf i t = .next t' ∧ Agree s' t' := by
  cases i with
  | init => exact h.initEffect
  | push b =>
    obtain ⟨s', t', hs', ht', h', hph'⟩ := h.appendByte hp (hroom hp) b
    exact ⟨_, _, pushEffect_of_appendByte hs', pushEffect_of_appendByte ht', h'.afterPush hph'⟩
  | final =>
    obtain ⟨s', t', hs', ht', h', hph'⟩ := h.appendByte hp (hroom hp) 0x80
    exact ⟨_, _, finalEffect_of_appendByte hs', finalEffect_of_appendByte ht', h'.afterFinal hph'⟩
  | rdbyte k | rdhex k =>
    have hdone : s.PH = .done := hp
    obtain ⟨hchain, -⟩ := h.chain (by simp [hdone])
    exact ⟨_, _, rfl, rfl, hchain ▸ h.respond _⟩
  | rdstat => exact ⟨_, _, rfl, rfl, h.status ▸ h.respond _⟩

/-- Two states that agree accept the same words, with the same outcome. -/
theorem Agree.step_accept {w : CmdWord} {rest : List HostInput} (ha : s.accepts w rest)
    (hroom : s.PH = .absorb → s.CNT.toNat < 64) :
    ∃ s' t', step s = .next s' ∧ step t = .next t' ∧ Agree s' t' := by
  have hnext := h.deliver.setInputs rest
  have ha' := h.accepts ha
  cases hd : decode w with
  | malformed why => exact ⟨_, _, step_malformed ha hd, step_malformed ha' hd, hnext.raiseCmdError w _⟩
  | command i =>
    by_cases hp : Permitted i s.PH
    · obtain rfl := eq_encode_of_decode hd
      obtain ⟨s', t', hs', ht', h'⟩ := hnext.effectOf (i := i) hp hroom
      exact ⟨s', t', (step_permitted ha hp).trans hs', (step_permitted ha' (h.ph ▸ hp)).trans ht', h'⟩
    · exact ⟨_, _, step_not_permitted ha hd hp, step_not_permitted ha' hd (h.ph ▸ hp), hnext.raiseCmdError w _⟩

end
end

/-- Settles O39: both take the same reset, the same micro-step, the same word or the same pass. -/
theorem unspecifiedValuesAreNeverRead : Obligations.UnspecifiedValuesAreNeverRead := by
  intro s t hs h
  have hc := Inv_codesAssigned hs
  have hc' := h.codesAssigned hc
  have hin := h.inputs
  have busyStep (hb : s.busy = true) (hn : NoReset s.inputs) :
      ∃ s' t', step s = .next s' ∧ step t = .next t' ∧ Agree s' t' :=
    ⟨_, _, step_busy_noReset hc hb hn, step_busy_noReset hc' (h.busy ▸ hb) (hin ▸ hn),
      hin ▸ (h.deliver.setInputs _).microStep (Inv_setInputs_deliver hs _) hb⟩
  match hi : s.inputs, hb : s.busy with
  | .reset :: rest, _ =>
    exact ⟨_, _, step_reset hi, step_reset (hin ▸ hi), (h.setInputs rest).applyReset⟩
  | [], true | .idle :: _, true | .command _ :: _, true => exact busyStep hb (by simp [NoReset, hi])
  | [], false =>
    exact ⟨_, _, step_no_input hc hb hi, step_no_input hc' (h.busy ▸ hb) (hin ▸ hi), h.deliver⟩
  | .idle :: rest, false =>
    exact ⟨_, _, step_idle hc hb hi, step_idle hc' (h.busy ▸ hb) (hin ▸ hi), h.deliver.setInputs rest⟩
  | .command w :: rest, false => exact h.step_accept ⟨hc, ready_of_not_busy hc hb, hi⟩ (cnt_lt_of_absorb hs)

/-! ### Runs -/

/-- From a state that meets the invariants, runs keep the agreement. -/
theorem Agree.run {s t : State} (h : Agree s t) (hs : s.Inv) (n : Nat) :
    ∃ s' t', runFor n s = .next s' ∧ runFor n t = .next t' ∧ Agree s' t' := by
  induction n generalizing s t with
  | zero => exact ⟨s, t, rfl, rfl, h⟩
  | succ n ih =>
    obtain ⟨u, v, hu, hv, huv⟩ := unspecifiedValuesAreNeverRead s t hs h
    obtain ⟨s', t', hs', ht', h'⟩ := ih huv ((transition_of_step hu).inv hs)
    exact ⟨s', t', (runFor_succ hu).trans hs', (runFor_succ hv).trans ht', h'⟩

/-- Settles O40: in IDLE, states that differ only in what reset leaves unspecified agree on all that may be read, and their
runs keep that. -/
theorem unspecifiedResetValuesDoNotShow : Obligations.UnspecifiedResetValuesDoNotShow := by
  intro n l q w W buf cnt len rnd
  have hagree : Agree { State.reset with inputs := l } { State.reset with
      inputs := l, A := q.a, B := q.b, C := q.c, D := q.d, a := w.a, b := w.b, c := w.c, d := w.d,
      W := W, BUF := buf, CNT := cnt, LEN := len, RND := rnd } := by
    constructor <;> simp [State.reset]
  obtain ⟨s, t, hs, ht, h⟩ := hagree.run (Inv_of_reset_values rfl rfl rfl rfl rfl) n
  exact ⟨s, t, hs, ht, h.observed, h.faultLog, h.status, h.inputs⟩

end Sys2Proof.Machine
end

section
/-! PROOF. The engine's busy periods (70 R300), O42, and a run that has ended (70 R302), O48. -/

namespace Sys2Proof.Machine

/-! ### Runs on which the engine stays busy -/

/-- n steps from s end in t, and the engine is busy before each of them (10 R43). -/
structure BusyRun (n : Nat) (s t : State) : Prop where
  run : runFor n s = .next t
  busy : ∀ m, m < n → ∃ u, runFor m s = .next u ∧ u.busy = true

theorem BusyRun.trans {m n : Nat} {s t u : State} (h : BusyRun m s t) (h' : BusyRun n t u) : BusyRun (m + n) s u where
  run := by rw [runFor_add, h.run, andThen_next, h'.run]
  busy k hk := by
    rcases Nat.lt_or_ge k m with hlt | hge
    · exact h.busy k hlt
    · obtain ⟨j, rfl⟩ := Nat.exists_eq_add_of_le hge
      obtain ⟨v, hv, hb⟩ := h'.busy j (by omega)
      exact ⟨v, by rw [runFor_add, h.run, andThen_next, hv], hb⟩

/-- A micro-step, for a host that waits. -/
theorem BusyRun.microStep {s : State} (hc : s.CodesAssigned) (hb : s.busy = true) (hw : HostWaits s.inputs) :
    BusyRun 1 s (microStep s.deliver) where
  run := runFor_succ (step_busy hc hb hw)
  busy m hm := by
    obtain rfl := Nat.lt_one_iff.mp hm
    exact ⟨s, rfl, hb⟩

theorem roundsDone_busy (s : State) (k : Nat) : (roundsDone s k).busy = true := by
  rw [State.busy, roundsDone]
  split <;> rfl

/-- PARSE, the 64 rounds and ACCUM: the engine is busy throughout (70 R300). -/
theorem BusyRun.compression {s : State} (hc : s.CodesAssigned) (hph : s.PH = .parse) (hw : HostWaits s.inputs) :
    BusyRun 66 s (compressed s) where
  run := (ParsingRun.compression hc hph hw).run
  busy m hm := by
    have hb : s.busy = true := busy_eq_true.mpr (.inr (.inl hph))
    have hparse := BusyRun.microStep hc hb hw
    rw [microStep_parse (s := s.deliver) hph] at hparse
    have hrounds {k : Nat} (hk : k ≤ 64) : ParsingRun k (microParse s.deliver) [] (roundsDone (microParse s.deliver) k) :=
      .rounds (by simp) (by simp) (by simp) (by simpa using hc.ecode) (by simpa using hw) (by simp) hk
    cases m with
    | zero => exact ⟨s, rfl, hb⟩
    | succ k =>
      refine ⟨_, ?_, roundsDone_busy (microParse s.deliver) k⟩
      rw [Nat.add_comm, runFor_add, hparse.run, andThen_next, (hrounds (by omega)).run]

/-- PAD and the compression of the block it completes (41 R162). -/
theorem BusyRun.padBlock {s : State} (hc : s.CodesAssigned) (hph : s.PH = .pad) (hw : HostWaits s.inputs) :
    BusyRun 67 s (compressed (microPad s.deliver)) := by
  have hpad := BusyRun.microStep hc (busy_eq_true.mpr (.inl hph)) hw
  rw [microStep_pad (s := s.deliver) hph] at hpad
  exact hpad.trans (.compression ⟨by simp, by simpa using hc.ecode⟩ (by simp) (by simpa using hw))

/-- The padding: one block where the length field has room, otherwise two (41 R162, R163). -/
theorem BusyRun.padding {s : State} (hc : s.CodesAssigned) (hph : s.PH = .pad) (hfin : s.FIN = true)
    (hlenw : s.LENW = false) (hw : HostWaits s.inputs) :
    ∃ t, BusyRun (if s.CNT.toNat ≤ 56 then 67 else 134) s t ∧ t.PH = .done := by
  have hblock := BusyRun.padBlock hc hph hw
  by_cases hroom : s.CNT.toNat ≤ 56
  · rw [if_pos hroom]
    exact ⟨_, hblock, by simp [hfin, lengthPlaced_of_le _ hroom]⟩
  · have hnext : (compressed (microPad s.deliver)).PH = .pad := by
      simp [hfin, hlenw, lengthPlaced_of_gt _ (Nat.lt_of_not_le hroom)]
    have hsecond := BusyRun.padBlock ⟨by rw [hnext]; simp, by simpa using hc.ecode⟩ hnext (by simpa using hw)
    rw [if_neg hroom]
    exact ⟨_, hblock.trans hsecond, by simp [hfin, lengthPlaced_of_le]⟩

/-- Settles O42: a PUSH that fills the block leads to PARSE, and FINAL to PAD, with CNT one more. -/
theorem busyPeriodsAreBounded : Obligations.BusyPeriodsAreBounded := by
  intro s hs hph hw
  have hc := Inv_codesAssigned hs
  have hlt := cnt_lt_of_absorb hs hph
  obtain ⟨-, hfin, hlenw⟩ := hs.absorb hph
  refine ⟨fun b t h63 hexec => ?push, fun t hexec => ?final⟩
  case push =>
    have hfull : s.CNT = 63 := BitVec.eq_of_toNat_eq h63
    rw [pushAppendsMessageByte b s hlt hc hph, if_pos hfull] at hexec
    obtain ⟨htph, htfin, htecode, htin⟩ : t.PH = .parse ∧ t.FIN = false ∧ t.ECODE = s.ECODE ∧
        t.inputs = s.inputs := by
      cases hexec
      exact ⟨rfl, hfin, rfl, rfl⟩
    have hrun := BusyRun.compression ⟨by simp [htph], htecode ▸ hc.ecode⟩ htph (htin ▸ hw)
    have hopen : (compressed t).PH = .absorb := by simp [htfin]
    exact ⟨hrun.busy, _, hrun.run, busy_eq_false_of_ready (.inr (.inl hopen)), hopen, compressed_CNT t⟩
  case final =>
    rw [finalStartsPadding s hlt hc hph] at hexec
    obtain ⟨htph, htfin, htlenw, htcnt, htecode, htin⟩ : t.PH = .pad ∧ t.FIN = true ∧ t.LENW = false ∧
        t.CNT = s.CNT + 1 ∧ t.ECODE = s.ECODE ∧ t.inputs = s.inputs := by
      cases hexec
      exact ⟨rfl, rfl, hlenw, rfl, rfl, rfl⟩
    obtain ⟨u, hrun, hdone⟩ := BusyRun.padding ⟨by simp [htph], htecode ▸ hc.ecode⟩ htph htfin htlenw (htin ▸ hw)
    have hroom : t.CNT.toNat ≤ 56 ↔ s.CNT.toNat ≤ 55 := by
      rw [htcnt, toNat_cnt_add_one hlt, Nat.add_le_add_iff_right]
    simp only [hroom] at hrun
    exact ⟨hrun.busy, u, hrun.run, hdone⟩

/-! ### A run that has ended -/

/-- Settles O48: each step of an engine with nothing to do only takes the response from the channel. -/
theorem endedRunStaysAsItIs : Obligations.EndedRunStaysAsItIs := by
  intro n s hc hended
  induction n generalizing s with
  | zero => exact ⟨s, rfl, hended, rfl, rfl⟩
  | succ n ih =>
    obtain ⟨hin, hb⟩ := hended
    obtain ⟨t, hrun, ht, hobserved, hframe⟩ := ih s.deliver ⟨hc.ph, hc.ecode⟩ ⟨hin, hb⟩
    exact ⟨t, (runFor_succ (step_no_input hc hb hin)).trans hrun, ht, hobserved.trans (by simp [State.observed]), hframe⟩

end Sys2Proof.Machine
end
